-- ==== Sys2Proof/Word.lean ====
section
/-! DEFINITION. The words of the machine (R5, R6): every value is unsigned, bit 0 the least significant. -/

namespace Sys2Proof

/-- A byte: a general register, a timer, a memory cell (R5, R60). -/
abbrev Byte := BitVec 8

/-- A 16-bit word: an instruction word, `I`, `pc`, a stack entry (R5, R24, R25, R26). -/
abbrev Word := BitVec 16

/-- A nibble: a register field `x` or `y`, the field `n`, a key code (R6, R91). -/
abbrev Nibble := BitVec 4

/-- The 12-bit immediate address `nnn` (R91). -/
abbrev Addr12 := BitVec 12

end Sys2Proof
end

