-- ==== Sys2Proof/Syntax.lean ====
section
/-! DEFINITION. The instructions: one constructor for each of the 35 rows of the opcode map (R95). -/

namespace Sys2Proof

/-- An instruction with its operand fields (R91, R92). `x` and `y` select general registers and may be equal or 15
(R93). -/
inductive Instr where
  /-- `00E0` CLS (R220). -/
  | cls
  /-- `00EE` RET (R161). -/
  | ret
  /-- `1nnn` JP addr (R162). -/
  | jpAddr (nnn : Addr12)
  /-- `2nnn` CALL addr (R163). -/
  | callAddr (nnn : Addr12)
  /-- `3xkk` SE Vx, byte (R164). -/
  | seVxByte (x : Nibble) (kk : Byte)
  /-- `4xkk` SNE Vx, byte (R165). -/
  | sneVxByte (x : Nibble) (kk : Byte)
  /-- `5xy0` SE Vx, Vy (R166). -/
  | seVxVy (x y : Nibble)
  /-- `6xkk` LD Vx, byte (R180). -/
  | ldVxByte (x : Nibble) (kk : Byte)
  /-- `7xkk` ADD Vx, byte (R181). -/
  | addVxByte (x : Nibble) (kk : Byte)
  /-- `8xy0` LD Vx, Vy (R182). -/
  | ldVxVy (x y : Nibble)
  /-- `8xy1` OR Vx, Vy (R183). -/
  | orVxVy (x y : Nibble)
  /-- `8xy2` AND Vx, Vy (R184). -/
  | andVxVy (x y : Nibble)
  /-- `8xy3` XOR Vx, Vy (R185). -/
  | xorVxVy (x y : Nibble)
  /-- `8xy4` ADD Vx, Vy (R186). -/
  | addVxVy (x y : Nibble)
  /-- `8xy5` SUB Vx, Vy (R187). -/
  | subVxVy (x y : Nibble)
  /-- `8xy6` SHR Vx, Vy (R188). -/
  | shrVxVy (x y : Nibble)
  /-- `8xy7` SUBN Vx, Vy (R189). -/
  | subnVxVy (x y : Nibble)
  /-- `8xyE` SHL Vx, Vy (R190). -/
  | shlVxVy (x y : Nibble)
  /-- `9xy0` SNE Vx, Vy (R167). -/
  | sneVxVy (x y : Nibble)
  /-- `Annn` LD I, addr (R200). -/
  | ldIAddr (nnn : Addr12)
  /-- `Bnnn` JP V0, addr (R168). -/
  | jpV0Addr (nnn : Addr12)
  /-- `Cxkk` RND Vx, byte (R191). -/
  | rndVxByte (x : Nibble) (kk : Byte)
  /-- `Dxyn` DRW Vx, Vy, n (R221). -/
  | drwVxVyN (x y n : Nibble)
  /-- `Ex9E` SKP Vx (R240). -/
  | skpVx (x : Nibble)
  /-- `ExA1` SKNP Vx (R241). -/
  | sknpVx (x : Nibble)
  /-- `Fx07` LD Vx, DT (R242). -/
  | ldVxDT (x : Nibble)
  /-- `Fx0A` LD Vx, K (R243). -/
  | ldVxK (x : Nibble)
  /-- `Fx15` LD DT, Vx (R244). -/
  | ldDTVx (x : Nibble)
  /-- `Fx18` LD ST, Vx (R245). -/
  | ldSTVx (x : Nibble)
  /-- `Fx1E` ADD I, Vx (R201). -/
  | addIVx (x : Nibble)
  /-- `Fx29` LD F, Vx (R202). -/
  | ldFVx (x : Nibble)
  /-- `Fx33` LD B, Vx (R203). -/
  | ldBVx (x : Nibble)
  /-- `Fx55` LD [I], Vx (R204). -/
  | ldMemIVx (x : Nibble)
  /-- `Fx65` LD Vx, [I] (R205). -/
  | ldVxMemI (x : Nibble)
  /-- Any other word `w` (R97, R160): it keeps the word, of which the machine ignores every bit. -/
  | nop (w : Word)
deriving DecidableEq, Repr

end Sys2Proof
end

