-- ==== Sys2Proof/Symbol.lean ====
section
/-! DEFINITION. The 35 opcode symbols (R94, R98): what the decoder returns without its operands, and what
`LastInstr` records (R32). -/

namespace Sys2Proof

/-- An opcode symbol (R95); `nop` is the thirty-fifth (R98). -/
inductive Symbol where
  | cls
  | ret
  | jpAddr
  | callAddr
  | seVxByte
  | sneVxByte
  | seVxVy
  | ldVxByte
  | addVxByte
  | ldVxVy
  | orVxVy
  | andVxVy
  | xorVxVy
  | addVxVy
  | subVxVy
  | shrVxVy
  | subnVxVy
  | shlVxVy
  | sneVxVy
  | ldIAddr
  | jpV0Addr
  | rndVxByte
  | drwVxVyN
  | skpVx
  | sknpVx
  | ldVxDT
  | ldVxK
  | ldDTVx
  | ldSTVx
  | addIVx
  | ldFVx
  | ldBVx
  | ldMemIVx
  | ldVxMemI
  | nop
deriving DecidableEq, Repr

/-- The symbol of an instruction: its row of the opcode map (R95). -/
def Instr.symbol : Instr → Symbol
  | .cls => .cls
  | .ret => .ret
  | .jpAddr _ => .jpAddr
  | .callAddr _ => .callAddr
  | .seVxByte _ _ => .seVxByte
  | .sneVxByte _ _ => .sneVxByte
  | .seVxVy _ _ => .seVxVy
  | .ldVxByte _ _ => .ldVxByte
  | .addVxByte _ _ => .addVxByte
  | .ldVxVy _ _ => .ldVxVy
  | .orVxVy _ _ => .orVxVy
  | .andVxVy _ _ => .andVxVy
  | .xorVxVy _ _ => .xorVxVy
  | .addVxVy _ _ => .addVxVy
  | .subVxVy _ _ => .subVxVy
  | .shrVxVy _ _ => .shrVxVy
  | .subnVxVy _ _ => .subnVxVy
  | .shlVxVy _ _ => .shlVxVy
  | .sneVxVy _ _ => .sneVxVy
  | .ldIAddr _ => .ldIAddr
  | .jpV0Addr _ => .jpV0Addr
  | .rndVxByte _ _ => .rndVxByte
  | .drwVxVyN _ _ _ => .drwVxVyN
  | .skpVx _ => .skpVx
  | .sknpVx _ => .sknpVx
  | .ldVxDT _ => .ldVxDT
  | .ldVxK _ => .ldVxK
  | .ldDTVx _ => .ldDTVx
  | .ldSTVx _ => .ldSTVx
  | .addIVx _ => .addIVx
  | .ldFVx _ => .ldFVx
  | .ldBVx _ => .ldBVx
  | .ldMemIVx _ => .ldMemIVx
  | .ldVxMemI _ => .ldVxMemI
  | .nop _ => .nop

/-- One row of the opcode map: a word `w` belongs to it when `w &&& mask = value` (R95). -/
structure OpcodeRow where
  /-- the symbol the row names -/
  symbol : Symbol
  /-- the column "match" -/
  value : Word
  /-- the column "mask" -/
  mask : Word
deriving DecidableEq, Repr

/-- A word belongs to a row (R95). -/
def OpcodeRow.matches (r : OpcodeRow) (w : Word) : Bool := w &&& r.mask == r.value

/-- Rows 1 to 34 of the opcode map, in its order (R95). -/
def opcodeRows : List OpcodeRow := [
  ⟨.cls, 0x00E0, 0xFFFF⟩,
  ⟨.ret, 0x00EE, 0xFFFF⟩,
  ⟨.jpAddr, 0x1000, 0xF000⟩,
  ⟨.callAddr, 0x2000, 0xF000⟩,
  ⟨.seVxByte, 0x3000, 0xF000⟩,
  ⟨.sneVxByte, 0x4000, 0xF000⟩,
  ⟨.seVxVy, 0x5000, 0xF00F⟩,
  ⟨.ldVxByte, 0x6000, 0xF000⟩,
  ⟨.addVxByte, 0x7000, 0xF000⟩,
  ⟨.ldVxVy, 0x8000, 0xF00F⟩,
  ⟨.orVxVy, 0x8001, 0xF00F⟩,
  ⟨.andVxVy, 0x8002, 0xF00F⟩,
  ⟨.xorVxVy, 0x8003, 0xF00F⟩,
  ⟨.addVxVy, 0x8004, 0xF00F⟩,
  ⟨.subVxVy, 0x8005, 0xF00F⟩,
  ⟨.shrVxVy, 0x8006, 0xF00F⟩,
  ⟨.subnVxVy, 0x8007, 0xF00F⟩,
  ⟨.shlVxVy, 0x800E, 0xF00F⟩,
  ⟨.sneVxVy, 0x9000, 0xF00F⟩,
  ⟨.ldIAddr, 0xA000, 0xF000⟩,
  ⟨.jpV0Addr, 0xB000, 0xF000⟩,
  ⟨.rndVxByte, 0xC000, 0xF000⟩,
  ⟨.drwVxVyN, 0xD000, 0xF000⟩,
  ⟨.skpVx, 0xE09E, 0xF0FF⟩,
  ⟨.sknpVx, 0xE0A1, 0xF0FF⟩,
  ⟨.ldVxDT, 0xF007, 0xF0FF⟩,
  ⟨.ldVxK, 0xF00A, 0xF0FF⟩,
  ⟨.ldDTVx, 0xF015, 0xF0FF⟩,
  ⟨.ldSTVx, 0xF018, 0xF0FF⟩,
  ⟨.addIVx, 0xF01E, 0xF0FF⟩,
  ⟨.ldFVx, 0xF029, 0xF0FF⟩,
  ⟨.ldBVx, 0xF033, 0xF0FF⟩,
  ⟨.ldMemIVx, 0xF055, 0xF0FF⟩,
  ⟨.ldVxMemI, 0xF065, 0xF0FF⟩
]

/-- A word is recognized: some row 1 to 34 has it (R95, R96). -/
def recognized (w : Word) : Bool := opcodeRows.any fun r => r.matches w

end Sys2Proof
end

