-- ==== Sys2Proof/WellFormed.lean ====
section
/-! DEFINITION. Which terms of `Instr` are instructions. The operand fields have the widths of R91, so every register,
immediate and key field is in range by its type; the one thing a term can get wrong is a `nop` that holds a word some
other row of the opcode map claims (R97). -/

namespace Sys2Proof

/-- The check: a `nop` holds an unrecognized word (R95, R97). -/
def Instr.wellFormed : Instr → Bool
  | .nop w => !recognized w
  | _ => true

/-- The instruction is well formed. -/
abbrev Instr.WellFormed (i : Instr) : Prop := i.wellFormed = true

end Sys2Proof
end

