-- ==== Sys2Proof/Decode.lean ====
section
/-! DEFINITION. The fields of the instruction word (R91), the decoder (R94, R95, R96, R99), the byte order of fetch
(R65), and after them the encoder, written from the patterns of R95. -/

namespace Sys2Proof

/-! ## Fields of the word (R91) -/

/-- `n0`, bits 15:12: the primary opcode key. -/
def fieldN0 (w : Word) : Nibble := w.extractLsb' 12 4

/-- `x`, bits 11:8. -/
def fieldX (w : Word) : Nibble := w.extractLsb' 8 4

/-- `y`, bits 7:4. -/
def fieldY (w : Word) : Nibble := w.extractLsb' 4 4

/-- `n`, bits 3:0. -/
def fieldN (w : Word) : Nibble := w.extractLsb' 0 4

/-- `kk`, bits 7:0. -/
def fieldKK (w : Word) : Byte := w.extractLsb' 0 8

/-- `nnn`, bits 11:0. -/
def fieldNNN (w : Word) : Addr12 := w.extractLsb' 0 12

/-! ## The decoder -/

/-- Family 0, keyed on all of `nnn` (R99). -/
def decodeFamily0 (w : Word) : Instr :=
  match (fieldNNN w).toNat with
  | 0x0E0 => .cls
  | 0x0EE => .ret
  | _ => .nop w

/-- Family 8, keyed on `n` (R99). -/
def decodeFamily8 (w : Word) : Instr :=
  match (fieldN w).toNat with
  | 0x0 => .ldVxVy (fieldX w) (fieldY w)
  | 0x1 => .orVxVy (fieldX w) (fieldY w)
  | 0x2 => .andVxVy (fieldX w) (fieldY w)
  | 0x3 => .xorVxVy (fieldX w) (fieldY w)
  | 0x4 => .addVxVy (fieldX w) (fieldY w)
  | 0x5 => .subVxVy (fieldX w) (fieldY w)
  | 0x6 => .shrVxVy (fieldX w) (fieldY w)
  | 0x7 => .subnVxVy (fieldX w) (fieldY w)
  | 0xE => .shlVxVy (fieldX w) (fieldY w)
  | _ => .nop w

/-- Family E, keyed on `kk` (R99). -/
def decodeFamilyE (w : Word) : Instr :=
  match (fieldKK w).toNat with
  | 0x9E => .skpVx (fieldX w)
  | 0xA1 => .sknpVx (fieldX w)
  | _ => .nop w

/-- Family F, keyed on `kk` (R99). -/
def decodeFamilyF (w : Word) : Instr :=
  match (fieldKK w).toNat with
  | 0x07 => .ldVxDT (fieldX w)
  | 0x0A => .ldVxK (fieldX w)
  | 0x15 => .ldDTVx (fieldX w)
  | 0x18 => .ldSTVx (fieldX w)
  | 0x1E => .addIVx (fieldX w)
  | 0x29 => .ldFVx (fieldX w)
  | 0x33 => .ldBVx (fieldX w)
  | 0x55 => .ldMemIVx (fieldX w)
  | 0x65 => .ldVxMemI (fieldX w)
  | _ => .nop w

/-- `Decode(w)`: total, and a function of the 16 bits of the word alone (R94). Dispatch is on `n0`, then inside families
0, 5, 8, 9, E and F on the further key of R99; a word no row has is a `nop` (R96, R97). -/
def decode (w : Word) : Instr :=
  match (fieldN0 w).toNat with
  | 0x0 => decodeFamily0 w
  | 0x1 => .jpAddr (fieldNNN w)
  | 0x2 => .callAddr (fieldNNN w)
  | 0x3 => .seVxByte (fieldX w) (fieldKK w)
  | 0x4 => .sneVxByte (fieldX w) (fieldKK w)
  | 0x5 => if fieldN w = 0 then .seVxVy (fieldX w) (fieldY w) else .nop w
  | 0x6 => .ldVxByte (fieldX w) (fieldKK w)
  | 0x7 => .addVxByte (fieldX w) (fieldKK w)
  | 0x8 => decodeFamily8 w
  | 0x9 => if fieldN w = 0 then .sneVxVy (fieldX w) (fieldY w) else .nop w
  | 0xA => .ldIAddr (fieldNNN w)
  | 0xB => .jpV0Addr (fieldNNN w)
  | 0xC => .rndVxByte (fieldX w) (fieldKK w)
  | 0xD => .drwVxVyN (fieldX w) (fieldY w) (fieldN w)
  | 0xE => decodeFamilyE w
  | _ => decodeFamilyF w

/-! ## Bytes of an instruction (R65, R90) -/

/-- The word whose byte at the lower address is `hi` and at the higher `lo`: big-endian (R65). -/
def wordOfBytes (hi lo : Byte) : Word := hi ++ lo

/-- The byte of a word that lies at the lower address: bits 15:8 (R65). -/
def highByte (w : Word) : Byte := w.extractLsb' 8 8

/-- The byte of a word that lies at the higher address: bits 7:0 (R65). -/
def lowByte (w : Word) : Byte := w.extractLsb' 0 8

/-- Why a byte string holds no instruction: no word is illegal (R97), so only its length can be wrong. -/
inductive DecodeError where
  /-- Fewer than the two bytes every instruction has (R90). Answered by `decodeBytes`; safe: nothing is decoded. -/
  | truncated
deriving DecidableEq, Repr

/-- The first instruction of a byte string and the bytes after it (R65, R90). -/
def decodeBytes : List Byte → Except DecodeError (Instr × List Byte)
  | hi :: lo :: rest => .ok (decode (wordOfBytes hi lo), rest)
  | _ => .error .truncated

/-! ## The encoder (patterns of R95) -/

/-- The word of an instruction: the pattern of its row with its fields put in. -/
def encode : Instr → Word
  | .cls => 0x00E0#16
  | .ret => 0x00EE#16
  | .jpAddr nnn => 0x1#4 ++ nnn
  | .callAddr nnn => 0x2#4 ++ nnn
  | .seVxByte x kk => 0x3#4 ++ x ++ kk
  | .sneVxByte x kk => 0x4#4 ++ x ++ kk
  | .seVxVy x y => 0x5#4 ++ x ++ y ++ 0x0#4
  | .ldVxByte x kk => 0x6#4 ++ x ++ kk
  | .addVxByte x kk => 0x7#4 ++ x ++ kk
  | .ldVxVy x y => 0x8#4 ++ x ++ y ++ 0x0#4
  | .orVxVy x y => 0x8#4 ++ x ++ y ++ 0x1#4
  | .andVxVy x y => 0x8#4 ++ x ++ y ++ 0x2#4
  | .xorVxVy x y => 0x8#4 ++ x ++ y ++ 0x3#4
  | .addVxVy x y => 0x8#4 ++ x ++ y ++ 0x4#4
  | .subVxVy x y => 0x8#4 ++ x ++ y ++ 0x5#4
  | .shrVxVy x y => 0x8#4 ++ x ++ y ++ 0x6#4
  | .subnVxVy x y => 0x8#4 ++ x ++ y ++ 0x7#4
  | .shlVxVy x y => 0x8#4 ++ x ++ y ++ 0xE#4
  | .sneVxVy x y => 0x9#4 ++ x ++ y ++ 0x0#4
  | .ldIAddr nnn => 0xA#4 ++ nnn
  | .jpV0Addr nnn => 0xB#4 ++ nnn
  | .rndVxByte x kk => 0xC#4 ++ x ++ kk
  | .drwVxVyN x y n => 0xD#4 ++ x ++ y ++ n
  | .skpVx x => 0xE#4 ++ x ++ 0x9E#8
  | .sknpVx x => 0xE#4 ++ x ++ 0xA1#8
  | .ldVxDT x => 0xF#4 ++ x ++ 0x07#8
  | .ldVxK x => 0xF#4 ++ x ++ 0x0A#8
  | .ldDTVx x => 0xF#4 ++ x ++ 0x15#8
  | .ldSTVx x => 0xF#4 ++ x ++ 0x18#8
  | .addIVx x => 0xF#4 ++ x ++ 0x1E#8
  | .ldFVx x => 0xF#4 ++ x ++ 0x29#8
  | .ldBVx x => 0xF#4 ++ x ++ 0x33#8
  | .ldMemIVx x => 0xF#4 ++ x ++ 0x55#8
  | .ldVxMemI x => 0xF#4 ++ x ++ 0x65#8
  | .nop w => w

/-- The two bytes of an instruction, the one at the lower address first (R65). -/
def encodeBytes (i : Instr) : List Byte := [highByte (encode i), lowByte (encode i)]

/-! ## The host's question -/

/-- The word of an instruction whose bits are `w`, numbered as spec/opcode_table.json numbers them: bit 0 is the least
significant bit of the one 16-bit word, and every bit from `nbits` up is 0. -/
def tableWord (nbits w : Nat) : Word := BitVec.ofNat 16 (w % 2 ^ nbits)

/-- The instruction the decoder reads from that word laid out as the hardware stores it (R65). -/
def decodeTableWord (nbits w : Nat) : Option Instr :=
  match decodeBytes [highByte (tableWord nbits w), lowByte (tableWord nbits w)] with
  | .ok (i, _) => some i
  | .error _ => none

end Sys2Proof
end

