-- ==== Sys2Proof/Config.lean ====
section
/-! DEFINITION. What an implementation or the environment fixes (R5): the architectural sizes, the named parameters
the spec leaves open, and the one free value (the byte drawn by `RND`). An `opaque` constant has no body here: no
proof can see its value, so a claim about it holds whatever it is. -/

namespace Sys2Proof

/-- The highest valid address, 0xFFF (R5, R64). -/
abbrev Config.maxAddress : Nat := 0xFFF

/-- `STACK_DEPTH` (R5, R26). -/
abbrev Config.stackDepth : Nat := 16

/-- The address the ROM is loaded at, and the `pc` at reset (R5, R41, R63). -/
abbrev Config.romBase : Nat := 0x200

/-- `ROM_MAX`, the longest ROM accepted (R5, R63). -/
abbrev Config.romMax : Nat := 3584

/-- The length of the font area, 16 sprites of 5 bytes (R5, R61). -/
abbrev Config.fontLength : Nat := 80

/-- The byte `RandomByte()` gives at the `k`-th draw of a run: unconstrained (R191, R284, D23).
Free value, log entry 1; it is applied to `State.randDraws`. -/
opaque Config.randomByte : Nat → Byte

/-- `CYCLES_PER_TICK` less one, uninterpreted: the source names no instruction rate (D19). -/
opaque Config.cyclesPerTickLessOne : Nat

/-- `CYCLES_PER_TICK` of the machine `State.reset`: some positive integer (R5, R277). Log entry 3. -/
def Config.cyclesPerTick : Nat := Config.cyclesPerTickLessOne + 1

/-- How far `KEY_PAUSE` lies above the key codes, uninterpreted (D20). -/
opaque Config.keyPauseOffset : Nat

/-- How far `KEY_QUIT` lies above the key codes, not counting `KEY_PAUSE`, uninterpreted (D20). -/
opaque Config.keyQuitOffset : Nat

/-- `KEY_PAUSE`, a reserved code outside 0 to 15 (R282, D20). Log entry 6. -/
def Config.keyPause : Nat := 16 + Config.keyPauseOffset

/-- `KEY_QUIT`, a reserved code outside 0 to 15 and other than `KEY_PAUSE` (R282, D20). Every such pair of codes is some
choice of the two offsets. Log entry 6. -/
def Config.keyQuit : Nat :=
  if Config.keyQuitOffset < Config.keyPauseOffset then 16 + Config.keyQuitOffset else 17 + Config.keyQuitOffset

end Sys2Proof
end

