-- ==== Sys2Proof/Machine/State.lean ====
section
/-! DEFINITION. The state of the machine (R20), its faults as the spec lists them (R260), the reset state (R41), and the
two ways a step can stop. -/

namespace Sys2Proof.Machine

/-! ## Faults, as state (R260, R273) -/

/-- Why a machine halted: the table of R260, each name with the value it records. Run-time causes halt the machine in a
cycle; the last two halt it at reset. -/
inductive Cause where
  /-- `Quit`, code 0 (R268): a quit event in step 1. -/
  | quit
  /-- `AddressOutOfRange`, code 1 (R261): the first invalid address. -/
  | addressOutOfRange (addr : Nat)
  /-- `StackOverflow`, code 2 (R262): `CALL` with 16 entries on the stack. -/
  | stackOverflow
  /-- `StackUnderflow`, code 3 (R263): `RET` with an empty stack. -/
  | stackUnderflow
  /-- `FontDigitOutOfRange`, code 4 (R264): the value of `V[x]`. -/
  | fontDigitOutOfRange (digit : Byte)
  /-- `KeyIndexOutOfRange`, code 5 (R265): the value of `V[x]`. -/
  | keyIndexOutOfRange (index : Byte)
  /-- `RomTooLarge`, code 6 (R266): the ROM length. -/
  | romTooLarge (length : Nat)
  /-- `InvalidConfig`, code 7 (R267). -/
  | invalidConfig
deriving DecidableEq, Repr

/-- The diagnostic of a halt (R273): its fields `code`, `name` and `info` are functions of `cause`. -/
structure Diagnostic where
  /-- the fault's name and the value it records -/
  cause : Cause
  /-- the `pc` of the cycle; none for a fault at reset -/
  pcAt : Option Word
  /-- the fetched instruction word; none for a fetch fault, a `Quit` or a fault at reset -/
  word : Option Word
deriving DecidableEq, Repr

/-- `Status` (R35). -/
inductive Status where
  | running
  | halted (d : Diagnostic)
deriving DecidableEq, Repr

/-! ## Ports (R288) -/

/-- One event of the input port (R122, R279). -/
inductive InputEvent where
  /-- key `k` went down (R280) -/
  | keyDown (k : Nibble)
  /-- key `k` went up (R281) -/
  | keyUp (k : Nibble)
  /-- the quit signal (R268) -/
  | quit
deriving DecidableEq, Repr

/-- The display (R29): 32 rows of 64 one-bit cells; the cell of column `c` and row `r` is bit `c` of row `r`. -/
abbrev Display := Vector (BitVec 64) 32

/-- Memory (R60): the bytes that differ from what an unlisted address reads as (`Memory.unlisted`), by rising address. -/
abbrev Memory := List Host.Cell

/-! ## The state (R20) -/

/-- The machine between two cycles. The first fourteen fields are the spec's table R20; the last four are the model's own
(log entries 1, 2, 3, 5). -/
structure State where
  /-- `V[0]` to `V[15]` (R21); `V[15]` is VF, the flag (R22) -/
  v : Vector Byte 16
  /-- `I`, the index register (R24) -/
  i : Word
  /-- `pc`, the address of the next instruction (R25) -/
  pc : Word
  /-- `Stack`, the newest entry first, at most 16 entries (R26) -/
  stack : List Word
  /-- `DT`, the delay timer (R27) -/
  dt : Byte
  /-- `ST`, the sound timer (R28) -/
  st : Byte
  /-- `Disp` (R29) -/
  disp : Display
  /-- `Key[0]` to `Key[15]` (R30) -/
  key : Vector Bool 16
  /-- `KeyLatch` (R31) -/
  keyLatch : Option Nibble
  /-- `LastInstr` (R32) -/
  lastInstr : Option Symbol
  /-- `WaitKey` (R33) -/
  waitKey : Option Nibble
  /-- `CycleCount` (R34) -/
  cycleCount : Nat
  /-- `Status` (R35) -/
  status : Status
  /-- `Mem` (R36) -/
  mem : Memory
  /-- the parameter `CYCLES_PER_TICK`, latched from the configuration at reset (R277, R288; log entry 3) -/
  cyclesPerTick : Nat
  /-- the input port: the events of each coming cycle, the next cycle's first; none after the last (R122; log entry 2) -/
  input : List (List InputEvent)
  /-- the display port: the messages sent so far, the oldest first (R283; log entry 5) -/
  displayOut : List Display
  /-- how many bytes `RND` has drawn, the index of the next free byte (R284; log entry 1) -/
  randDraws : Nat
deriving DecidableEq, Repr

/-- The machine right after reset (R41, R300) with an empty ROM, the default font and the configuration
`Config.cyclesPerTick`: memory lists nothing, so it reads as its reset contents (`Memory.unlisted`). A machine with a ROM,
a font and a configuration of the host's is `State.create`. -/
def State.reset : State where
  v := Vector.replicate 16 0#8
  i := 0#16
  pc := BitVec.ofNat 16 Config.romBase
  stack := []
  dt := 0#8
  st := 0#8
  disp := Vector.replicate 32 0#64
  key := Vector.replicate 16 false
  keyLatch := none
  lastInstr := none
  waitKey := none
  cycleCount := 0
  status := .running
  mem := []
  cyclesPerTick := Config.cyclesPerTick
  input := []
  displayOut := []
  randDraws := 0

/-! ## How a step can stop -/

/-- The faults of a step. A fault of R260 is not one of them: the cycle that raises it ends in a next state whose status is
`halted`, as R273 describes its entry. -/
inductive Fault where
  /-- The machine is halted and has no step (R131, R274); it stays as it is for ever. Raised by `step` on a state whose
  status is `halted d`, and by nothing else. Safe: the spec gives a halted machine no further behaviour. -/
  | halted (d : Diagnostic)
deriving DecidableEq, Repr

/-- The refusals of a step. -/
inductive Refusal where
  /-- The instruction has no meaning in the model yet. Raised by an arm of `exec` that is rejected by name; no arm is.
  Safe: nothing is claimed of such an instruction. -/
  | notModelled (mnemonic : String)
deriving DecidableEq, Repr

/-- What a meaning answers. -/
abbrev Result := Host.Outcome State Fault Refusal

end Sys2Proof.Machine
end

