-- ==== Sys2Proof/Machine/Ops.lean ====
section
/-! DEFINITION. The named operations over memory, registers, program counter, stack, display, timers and status; taking a
fault, which is a halt (R273). A fault has no return (R274), so no operation undoes it. -/

namespace Sys2Proof.Machine

/-! ## Memory (R60 to R64) -/

/-- The default `FONT` (R62): 16 sprites of 5 bytes. PRESUMED: the spec marks the bytes as general knowledge (D8); log
entry 4. -/
def defaultFont : List Byte := [
  0xF0, 0x90, 0x90, 0x90, 0xF0,  0x20, 0x60, 0x20, 0x20, 0x70,
  0xF0, 0x10, 0xF0, 0x80, 0xF0,  0xF0, 0x10, 0xF0, 0x10, 0xF0,
  0x90, 0x90, 0xF0, 0x10, 0x10,  0xF0, 0x80, 0xF0, 0x10, 0xF0,
  0xF0, 0x80, 0xF0, 0x90, 0xF0,  0xF0, 0x10, 0x20, 0x40, 0x40,
  0xF0, 0x90, 0xF0, 0x90, 0xF0,  0xF0, 0x90, 0xF0, 0x10, 0xF0,
  0xF0, 0x90, 0xF0, 0x90, 0x90,  0xE0, 0x90, 0xE0, 0x90, 0xE0,
  0xF0, 0x80, 0x80, 0x80, 0xF0,  0xE0, 0x90, 0x90, 0x90, 0xE0,
  0xF0, 0x80, 0xF0, 0x80, 0xF0,  0xF0, 0x80, 0xF0, 0x80, 0x80]

/-- What an address that memory does not list reads as: the reset contents with an empty ROM, the font at 0x000 to 0x04F
and 0 above (R41, R61, R301). -/
def Memory.unlisted (a : Nat) : Byte := defaultFont.getD a 0#8

/-- The byte at a valid address (R64, R72). -/
def Memory.read : Memory → Nat → Byte
  | [], a => Memory.unlisted a
  | c :: m, a => if c.1 = a then c.2 else Memory.read m a

/-- List byte `b` at address `a`, keeping the addresses rising. -/
def Memory.insert (a : Nat) (b : Byte) : Memory → Memory
  | [] => [(a, b)]
  | c :: m => if a < c.1 then (a, b) :: c :: m else if a = c.1 then (a, b) :: m else c :: Memory.insert a b m

/-- Write a byte at a valid address (R64): a byte that an unlisted address reads as is not listed. -/
def Memory.write (m : Memory) (a : Nat) (b : Byte) : Memory :=
  if b = Memory.unlisted a then m.filter (fun c => c.1 != a) else Memory.insert a b m

/-- Write bytes at ascending addresses from `a` (R66). -/
def Memory.writeBytes (m : Memory) (a : Nat) : List Byte → Memory
  | [] => m
  | b :: bs => Memory.writeBytes (m.write a b) (a + 1) bs

/-- The `n` bytes at ascending addresses from `a` (R66, R68). -/
def Memory.readBytes (m : Memory) (a n : Nat) : List Byte := (List.range n).map fun k => m.read (a + k)

/-- The canonical form: addresses strictly rising and valid, no byte listed that an unlisted address reads as. -/
abbrev Memory.wf (m : Memory) : Prop :=
  m.Pairwise (fun c d => c.1 < d.1) ∧ ∀ c ∈ m, c.1 ≤ Config.maxAddress ∧ c.2 ≠ Memory.unlisted c.1

/-- The check before an access to `len` bytes from `base` (R64): the first address above 0xFFF, if any. The sum is
unbounded; it never wraps (D31). -/
def firstInvalid (base len : Nat) : Option Nat :=
  if 0 < len ∧ Config.maxAddress < base + len - 1 then some (max base (Config.maxAddress + 1)) else none

/-! ## General registers (R21) -/

/-- `V[r]`. -/
def State.getV (s : State) (r : Nibble) : Byte := s.v[r.toNat]'r.isLt

/-- `V[r] <- b`. -/
def State.setV (s : State) (r : Nibble) (b : Byte) : State := { s with v := s.v.set r.toNat b r.isLt }

/-- VF, `V[15]` (R22). -/
abbrev regVF : Nibble := 0xF#4

/-- `V[0] .. V[n-1] <-` the bytes at ascending addresses from `base` (R205). -/
def State.loadRegs (s : State) (base : Nat) : Nat → State
  | 0 => s
  | n + 1 => (State.loadRegs s base n).setV (BitVec.ofNat 4 n) (s.mem.read (base + n))

/-- The bytes `V[0] .. V[n-1]` (R204). -/
def State.regBytes (s : State) (n : Nat) : List Byte := (List.range n).map fun k => s.getV (BitVec.ofNat 4 k)

/-! ## Special registers, one writer each (R24 to R36) -/

def State.setI (s : State) (w : Word) : State := { s with i := w }
def State.setPc (s : State) (w : Word) : State := { s with pc := w }
def State.setStack (s : State) (l : List Word) : State := { s with stack := l }
def State.setDT (s : State) (b : Byte) : State := { s with dt := b }
def State.setST (s : State) (b : Byte) : State := { s with st := b }
def State.setDisp (s : State) (d : Display) : State := { s with disp := d }
def State.setMem (s : State) (m : Memory) : State := { s with mem := m }
def State.setKeyLatch (s : State) (k : Option Nibble) : State := { s with keyLatch := k }
def State.setWaitKey (s : State) (k : Option Nibble) : State := { s with waitKey := k }
def State.setLastInstr (s : State) (y : Option Symbol) : State := { s with lastInstr := y }
def State.setStatus (s : State) (x : Status) : State := { s with status := x }

/-- `Key[k]` (R30). -/
def State.getKey (s : State) (k : Nibble) : Bool := s.key[k.toNat]'k.isLt

/-- `Key[k] <- b` (R30). -/
def State.setKey (s : State) (k : Nibble) (b : Bool) : State := { s with key := s.key.set k.toNat b k.isLt }

/-- Take the next free byte's index: one more draw (R284). -/
def State.drawn (s : State) : State := { s with randDraws := s.randDraws + 1 }

/-- `RandomByte()`: the byte of the draw this state would make next (R191, R284). -/
def State.randomByte (s : State) : Byte := Config.randomByte s.randDraws

/-! ## Program counter (R25, R127) -/

/-- `pc <- pc + 2` (R127). -/
def State.advance (s : State) : State := s.setPc (s.pc + 2#16)

/-- `pc <- pc + 4` if the condition holds, else `pc + 2` (R127, R164). -/
def State.skipIf (s : State) (c : Bool) : State := s.setPc (if c then s.pc + 4#16 else s.pc + 2#16)

/-! ## Display cells (R29) -/

/-- `Disp[64*row + col]`, for a row below 32 and a column below 64. -/
def Display.get (d : Display) (col row : Nat) : Bool := (d[row]?.getD 0#64).getLsbD col

/-- `Disp[i]`. -/
def Display.cell (d : Display) (i : Nat) : Bool := d.get (i % 64) (i / 64)

/-- The message of the display port (R283): the 2048 cells in order. -/
def Display.cells (d : Display) : List Bool := (List.range 2048).map d.cell

/-- `Disp[64*row + col] <- Disp[64*row + col] ^ 1` (R225). -/
def Display.flip (d : Display) (col row : Nat) : Display := d.setIfInBounds row (d[row]?.getD 0#64 ^^^ BitVec.twoPow 64 col)

/-- The blank display (R41, R220). -/
def Display.blank : Display := Vector.replicate 32 0#64

/-! ## Faults (R260, R273) -/

/-- The numeric code of a cause (R260). -/
def Cause.code : Cause → Nat
  | .quit => 0
  | .addressOutOfRange _ => 1
  | .stackOverflow => 2
  | .stackUnderflow => 3
  | .fontDigitOutOfRange _ => 4
  | .keyIndexOutOfRange _ => 5
  | .romTooLarge _ => 6
  | .invalidConfig => 7

/-- The name of a cause (R260). -/
def Cause.name : Cause → String
  | .quit => "Quit"
  | .addressOutOfRange _ => "AddressOutOfRange"
  | .stackOverflow => "StackOverflow"
  | .stackUnderflow => "StackUnderflow"
  | .fontDigitOutOfRange _ => "FontDigitOutOfRange"
  | .keyIndexOutOfRange _ => "KeyIndexOutOfRange"
  | .romTooLarge _ => "RomTooLarge"
  | .invalidConfig => "InvalidConfig"

/-- The value a cause records, if any (R260). -/
def Cause.info : Cause → Option Nat
  | .addressOutOfRange a => some a
  | .fontDigitOutOfRange d => some d.toNat
  | .keyIndexOutOfRange k => some k.toNat
  | .romTooLarge l => some l
  | .quit | .stackOverflow | .stackUnderflow | .invalidConfig => none

/-- Fault entry is a halt (R273): `Status <- Halted(d)` and nothing else changes. The `pc` is that of the cycle. -/
def State.halt (s : State) (cause : Cause) (word : Option Word) : State :=
  s.setStatus (.halted { cause := cause, pcAt := some s.pc, word := word })

/-- An instruction raises a fault (R7, R130): none of its writes happen, the machine halts, and the diagnostic holds its
word. The word is `encode i`: an instruction that can raise has exactly one word (R95). -/
def State.raise (s : State) (i : Instr) (cause : Cause) : Result := .next (s.halt cause (some (encode i)))

/-- The machine is halted (R35). -/
def State.isHalted (s : State) : Bool :=
  match s.status with
  | .running => false
  | .halted _ => true

/-- The tone output, on exactly when `ST > 0` (R278). -/
def State.tone (s : State) : Bool := 0#8 < s.st

end Sys2Proof.Machine
end

