-- ==== Sys2Proof/Machine/Flags.lean ====
section
/-! DEFINITION. The 8-bit flag-arithmetic primitives (R140 to R144), the write-back of a result and its flag (R145), the
arithmetic without a flag (R147) and the numeric helpers (R149, R150). -/

namespace Sys2Proof.Machine

/-- A flag as VF holds it: 1 or 0 (R22). -/
def flagByte (f : Bool) : Byte := if f then 1#8 else 0#8

/-- A primitive's pair `(result, flag)`. -/
structure AluOut where
  /-- the 8-bit result -/
  result : Byte
  /-- the flag, true for 1 -/
  flag : Bool
deriving DecidableEq, Repr

/-- `Add8` (R140): the flag is the carry. -/
def add8 (a b : Byte) : AluOut := ⟨BitVec.ofNat 8 (a.toNat + b.toNat), decide (255 < a.toNat + b.toNat)⟩

/-- `Sub8` (R141): the flag is "no borrow". -/
def sub8 (a b : Byte) : AluOut := ⟨BitVec.ofInt 8 ((a.toNat : Int) - (b.toNat : Int)), decide (b.toNat ≤ a.toNat)⟩

/-- `Shr8` (R142): the flag is bit 0 of the operand. -/
def shr8 (a : Byte) : AluOut := ⟨BitVec.ofNat 8 (a.toNat / 2), a.getLsbD 0⟩

/-- `Shl8` (R143): the flag is bit 7 of the operand. -/
def shl8 (a : Byte) : AluOut := ⟨BitVec.ofNat 8 (2 * a.toNat), a.getLsbD 7⟩

/-- `Or8` (R144): the flag is always 0. -/
def or8 (a b : Byte) : AluOut := ⟨a ||| b, false⟩

/-- `And8` (R144): the flag is always 0. -/
def and8 (a b : Byte) : AluOut := ⟨a &&& b, false⟩

/-- `Xor8` (R144): the flag is always 0. -/
def xor8 (a b : Byte) : AluOut := ⟨a ^^^ b, false⟩

/-- `WriteBack(x, (result, flag))` (R145): the result first, then the flag, so that the flag wins when `x = 15` (R23). -/
def State.writeBack (s : State) (x : Nibble) (o : AluOut) : State := (s.setV x o.result).setV regVF (flagByte o.flag)

/-- `Inc8` (R147): no flag. -/
def inc8 (a k : Byte) : Byte := BitVec.ofNat 8 (a.toNat + k.toNat)

/-- `Inc16` (R147): no flag. -/
def inc16 (a : Word) (k : Nat) : Word := BitVec.ofNat 16 (a.toNat + k)

/-- `Eq8` (R148). -/
def eq8 (a b : Byte) : Bool := a == b

/-- `Bcd(v)` (R149): hundreds, tens, units. -/
def bcd (v : Byte) : List Byte :=
  [BitVec.ofNat 8 (v.toNat / 100), BitVec.ofNat 8 (v.toNat / 10 % 10), BitVec.ofNat 8 (v.toNat % 10)]

/-- Element `c` of `Bits8(v)` (R150): bit `7 - c`, the most significant first. -/
def bits8 (v : Byte) (c : Nat) : Bool := v.getLsbD (7 - c)

end Sys2Proof.Machine
end

