-- ==== Sys2Proof/Machine/Operands.lean ====
section
/-! DEFINITION. The operand forms (R93): unsigned immediates zero-extended to the place they go, the register-held
coordinates of a draw (R222), the font address (R202) and the one addressing mode, `I` plus an offset (R64). -/

namespace Sys2Proof.Machine

/-- `zext_16(nnn)` (R93). -/
def immAddr (nnn : Addr12) : Word := nnn.zeroExtend 16

/-- A byte widened to 16 bits, as `JP V0` and `ADD I` add it (R168, R201). -/
def byteWord (b : Byte) : Word := b.zeroExtend 16

/-- A key code or digit as a register holds it (R243). -/
def nibbleByte (k : Nibble) : Byte := k.zeroExtend 8

/-- The origin column of a draw, `V[x] mod 64` (R222). -/
def State.originCol (s : State) (x : Nibble) : Nat := (s.getV x).toNat % 64

/-- The origin row of a draw, `V[y] mod 32` (R222). -/
def State.originRow (s : State) (y : Nibble) : Nat := (s.getV y).toNat % 32

/-- The address of the font sprite of digit `d`, `5 * d` (R61, R202). -/
def fontAddr (d : Byte) : Word := BitVec.ofNat 16 (5 * d.toNat)

/-- The base address of every data access: `I`, as an unbounded number to which an offset is added (R64). -/
def State.base (s : State) : Nat := s.i.toNat

/-- A register-held key index or font digit as a nibble, when the whole byte is at most 0xF (R202, R240). -/
def nibbleOf (b : Byte) : Option Nibble := if b.toNat ≤ 0xF then some (b.truncate 4) else none

end Sys2Proof.Machine
end

