-- ==== Sys2Proof/Machine/ControlFlow.lean ====
section
/-! DEFINITION. The meanings of the control transfers (42_control_flow.md): NOP, RET, JP, CALL, the four skips, JP V0. A
target is not checked when it is written; a bad one shows at the next fetch (R169). -/

namespace Sys2Proof.Machine

/-- `NOP` (R160): nothing but the advance; every bit of its word is ignored. -/
def execNop (s : State) : Result := .next s.advance

/-- `RET` (R161): pop into `pc`, or `StackUnderflow` (R263). -/
def execRet (s : State) : Result :=
  match s.stack with
  | [] => s.raise .ret .stackUnderflow
  | t :: rest => .next ((s.setStack rest).setPc t)

/-- `JP addr` (R162). -/
def execJpAddr (nnn : Addr12) (s : State) : Result := .next (s.setPc (immAddr nnn))

/-- `CALL addr` (R163): push `pc + 2` and jump, or `StackOverflow` when 16 entries are held (R262). -/
def execCallAddr (nnn : Addr12) (s : State) : Result :=
  if s.stack.length < Config.stackDepth then
    .next ((s.setStack ((s.pc + 2#16) :: s.stack)).setPc (immAddr nnn))
  else s.raise (.callAddr nnn) .stackOverflow

/-- `SE Vx, byte` (R164). -/
def execSeVxByte (x : Nibble) (kk : Byte) (s : State) : Result := .next (s.skipIf (eq8 (s.getV x) kk))

/-- `SNE Vx, byte` (R165). -/
def execSneVxByte (x : Nibble) (kk : Byte) (s : State) : Result := .next (s.skipIf (!eq8 (s.getV x) kk))

/-- `SE Vx, Vy` (R166). -/
def execSeVxVy (x y : Nibble) (s : State) : Result := .next (s.skipIf (eq8 (s.getV x) (s.getV y)))

/-- `SNE Vx, Vy` (R167). -/
def execSneVxVy (x y : Nibble) (s : State) : Result := .next (s.skipIf (!eq8 (s.getV x) (s.getV y)))

/-- `JP V0, addr` (R168): the sum is mod 65536, never mod 4096. -/
def execJpV0Addr (nnn : Addr12) (s : State) : Result := .next (s.setPc (immAddr nnn + byteWord (s.getV 0#4)))

end Sys2Proof.Machine
end

