-- ==== Sys2Proof/Machine/DisplayOps.lean ====
section
/-! DEFINITION. The meanings of the display instructions and the XOR collision detector (45_display.md). -/

namespace Sys2Proof.Machine

/-- What a draw works on: the display and the collision flag so far (R221). -/
structure Canvas where
  /-- the display as drawn so far -/
  disp : Display
  /-- `coll`: some cell has flipped from 1 to 0 (R224) -/
  coll : Bool
deriving DecidableEq, Repr

/-- One lit sprite pixel at a column and row of the grid: collide if the cell is set, then invert it (R224, R225). -/
def plot (col row : Nat) (c : Canvas) : Canvas :=
  { disp := c.disp.flip col row, coll := c.coll || c.disp.get col row }

/-- Sprite pixel `k` of a row byte, at column `col + k`: dropped past the right edge, nothing for a bit of 0 (R223). -/
def plotBit (col row : Nat) (b : Byte) (c : Canvas) (k : Nat) : Canvas :=
  if col + k ≤ 63 ∧ bits8 b k then plot (col + k) row c else c

/-- One sprite row from column `col`: dropped whole below the bottom edge (R223). -/
def drawRow (col row : Nat) (b : Byte) (c : Canvas) : Canvas :=
  if row ≤ 31 then (List.range 8).foldl (plotBit col row b) c else c

/-- The sprite rows from row `row` down (R221). -/
def drawRows (col row : Nat) : List Byte → Canvas → Canvas
  | [], c => c
  | b :: bs, c => drawRows col (row + 1) bs (drawRow col row b c)

/-- `CLS` (R220): it publishes nothing (R126). -/
def execCls (s : State) : Result := .next (s.setDisp Display.blank).advance

/-- `DRW Vx, Vy, n` (R221, R227): coordinates first, then all `n` bytes, then the display, then VF. Step 5 of the cycle
publishes (R126). -/
def execDrwVxVyN (x y n : Nibble) (s : State) : Result :=
  match firstInvalid s.base n.toNat with
  | some a => s.raise (.drwVxVyN x y n) (.addressOutOfRange a)
  | none =>
    let c := drawRows (s.originCol x) (s.originRow y) (s.mem.readBytes s.base n.toNat) ⟨s.disp, false⟩
    .next ((s.setDisp c.disp).setV regVF (flagByte c.coll)).advance

end Sys2Proof.Machine
end

