-- ==== Sys2Proof/Machine/IndexMemory.lean ====
section
/-! DEFINITION. The meanings of the index register and memory instructions (44_index_memory.md). The range check comes
before every write, so a faulting instruction writes nothing (R7, R130). -/

namespace Sys2Proof.Machine

/-- `LD I, addr` (R200). -/
def execLdIAddr (nnn : Addr12) (s : State) : Result := .next (s.setI (immAddr nnn)).advance

/-- `ADD I, Vx` (R201): no flag. -/
def execAddIVx (x : Nibble) (s : State) : Result := .next (s.setI (inc16 s.i (s.getV x).toNat)).advance

/-- `LD F, Vx` (R202): the digit is the whole register, or `FontDigitOutOfRange` (R264). -/
def execLdFVx (x : Nibble) (s : State) : Result :=
  match nibbleOf (s.getV x) with
  | none => s.raise (.ldFVx x) (.fontDigitOutOfRange (s.getV x))
  | some d => .next (s.setI (fontAddr (nibbleByte d))).advance

/-- `LD B, Vx` (R203): hundreds, tens, units at `I`, `I + 1`, `I + 2`. -/
def execLdBVx (x : Nibble) (s : State) : Result :=
  match firstInvalid s.base 3 with
  | some a => s.raise (.ldBVx x) (.addressOutOfRange a)
  | none => .next (s.setMem (s.mem.writeBytes s.base (bcd (s.getV x)))).advance

/-- `LD [I], Vx` (R204): `V[0]` to `V[x]` at `I` upward, then `I` moves past them. -/
def execLdMemIVx (x : Nibble) (s : State) : Result :=
  match firstInvalid s.base (x.toNat + 1) with
  | some a => s.raise (.ldMemIVx x) (.addressOutOfRange a)
  | none =>
    .next ((s.setMem (s.mem.writeBytes s.base (s.regBytes (x.toNat + 1)))).setI (inc16 s.i (x.toNat + 1))).advance

/-- `LD Vx, [I]` (R205): `V[0]` to `V[x]` from `I` upward, then `I` moves past them. -/
def execLdVxMemI (x : Nibble) (s : State) : Result :=
  match firstInvalid s.base (x.toNat + 1) with
  | some a => s.raise (.ldVxMemI x) (.addressOutOfRange a)
  | none => .next ((s.loadRegs s.base (x.toNat + 1)).setI (inc16 s.i (x.toNat + 1))).advance

end Sys2Proof.Machine
end

