-- ==== Sys2Proof/Machine/KeypadTimer.lean ====
section
/-! DEFINITION. The meanings of the keypad and timer instructions (46_keypad_timer.md). -/

namespace Sys2Proof.Machine

/-- `SKP Vx` (R240): the level of the key whose index is the whole register, or `KeyIndexOutOfRange` (R265). -/
def execSkpVx (x : Nibble) (s : State) : Result :=
  match nibbleOf (s.getV x) with
  | none => s.raise (.skpVx x) (.keyIndexOutOfRange (s.getV x))
  | some k => .next (s.skipIf (s.getKey k))

/-- `SKNP Vx` (R241). -/
def execSknpVx (x : Nibble) (s : State) : Result :=
  match nibbleOf (s.getV x) with
  | none => s.raise (.sknpVx x) (.keyIndexOutOfRange (s.getV x))
  | some k => .next (s.skipIf (!s.getKey k))

/-- `LD Vx, DT` (R242): the timer before this cycle's tick. -/
def execLdVxDT (x : Nibble) (s : State) : Result := .next (s.setV x s.dt).advance

/-- `LD Vx, K` (R243), one poll. Phase 1, `WaitKey` none: take the key of the latch, if any. Phase 2: resolve when that
key is up. At most one phase change per cycle; `pc` moves only at resolution. -/
def execLdVxK (x : Nibble) (s : State) : Result :=
  match s.waitKey with
  | none =>
    match s.keyLatch with
    | none => .next s
    | some k => .next ((s.setWaitKey (some k)).setKeyLatch none)
  | some k =>
    if s.getKey k then .next s else .next ((s.setV x (nibbleByte k)).setWaitKey none).advance

/-- `LD DT, Vx` (R244). -/
def execLdDTVx (x : Nibble) (s : State) : Result := .next (s.setDT (s.getV x)).advance

/-- `LD ST, Vx` (R245). -/
def execLdSTVx (x : Nibble) (s : State) : Result := .next (s.setST (s.getV x)).advance

end Sys2Proof.Machine
end

