-- ==== Sys2Proof/Machine/LoadAlu.lean ====
section
/-! DEFINITION. The meanings of the register loads and ALU instructions (43_load_alu.md). Every operand is read from the
state before the instruction (R146). -/

namespace Sys2Proof.Machine

/-- `LD Vx, byte` (R180). -/
def execLdVxByte (x : Nibble) (kk : Byte) (s : State) : Result := .next (s.setV x kk).advance

/-- `ADD Vx, byte` (R181): no flag. -/
def execAddVxByte (x : Nibble) (kk : Byte) (s : State) : Result := .next (s.setV x (inc8 (s.getV x) kk)).advance

/-- `LD Vx, Vy` (R182): no flag. -/
def execLdVxVy (x y : Nibble) (s : State) : Result := .next (s.setV x (s.getV y)).advance

/-- `OR Vx, Vy` (R183). -/
def execOrVxVy (x y : Nibble) (s : State) : Result := .next (s.writeBack x (or8 (s.getV x) (s.getV y))).advance

/-- `AND Vx, Vy` (R184). -/
def execAndVxVy (x y : Nibble) (s : State) : Result := .next (s.writeBack x (and8 (s.getV x) (s.getV y))).advance

/-- `XOR Vx, Vy` (R185). -/
def execXorVxVy (x y : Nibble) (s : State) : Result := .next (s.writeBack x (xor8 (s.getV x) (s.getV y))).advance

/-- `ADD Vx, Vy` (R186). -/
def execAddVxVy (x y : Nibble) (s : State) : Result := .next (s.writeBack x (add8 (s.getV x) (s.getV y))).advance

/-- `SUB Vx, Vy` (R187). -/
def execSubVxVy (x y : Nibble) (s : State) : Result := .next (s.writeBack x (sub8 (s.getV x) (s.getV y))).advance

/-- `SHR Vx, Vy` (R188): the source is `V[y]`. -/
def execShrVxVy (x y : Nibble) (s : State) : Result := .next (s.writeBack x (shr8 (s.getV y))).advance

/-- `SUBN Vx, Vy` (R189): the operands of `SUB` exchanged. -/
def execSubnVxVy (x y : Nibble) (s : State) : Result := .next (s.writeBack x (sub8 (s.getV y) (s.getV x))).advance

/-- `SHL Vx, Vy` (R190): the source is `V[y]`. -/
def execShlVxVy (x y : Nibble) (s : State) : Result := .next (s.writeBack x (shl8 (s.getV y))).advance

/-- `RND Vx, byte` (R191): one fresh byte of the environment, masked; no flag. Free value, log entry 1. -/
def execRndVxByte (x : Nibble) (kk : Byte) (s : State) : Result :=
  .next ((s.setV x (s.randomByte &&& kk)).drawn).advance

end Sys2Proof.Machine
end

