-- ==== Sys2Proof/Machine/Sequencer.lean ====
section
/-! DEFINITION. The steps of the execution cycle around the instruction (R121): input (R122, R280, R281), fetch (R123),
publish (R126), tick count (R128, R276), latch clear (R129). -/

namespace Sys2Proof.Machine

/-! ## Step 1, input (R122) -/

/-- The keypad mapper on one event (R280, R281); a quit halts with no fetched word (R268, R273). -/
def State.applyEvent (s : State) : InputEvent → State
  | .keyDown k => (s.setKey k true).setKeyLatch (some k)
  | .keyUp k => s.setKey k false
  | .quit => s.halt .quit none

/-- The events of a cycle in order; those after a quit are dropped (R122). -/
def State.applyEvents (s : State) : List InputEvent → State
  | [] => s
  | .quit :: _ => s.applyEvent .quit
  | e :: es => (s.applyEvent e).applyEvents es

/-- The events the environment supplies for this cycle. -/
def State.cycleEvents (s : State) : List InputEvent := s.input.headD []

/-- The input port moves on to the next cycle. -/
def State.popInput (s : State) : State := { s with input := s.input.tail }

/-- Step 1: this cycle's events, taken from the port and applied. -/
def State.applyInput (s : State) : State := s.popInput.applyEvents s.cycleEvents

/-! ## Step 2, fetch (R123) -/

/-- The first invalid address of the fetch, if any: `pc` above 0xFFF, or 0x1000 for `pc = 0xFFF`. -/
def State.fetchFault (s : State) : Option Nat := firstInvalid s.pc.toNat 2

/-- `MemRead(pc, 2)`, big-endian (R65). -/
def State.fetchWord (s : State) : Word := wordOfBytes (s.mem.read s.pc.toNat) (s.mem.read (s.pc.toNat + 1))

/-! ## Steps 4 to 8 -/

/-- Step 5: the display port sends the whole display after a `DRW`, and after nothing else (R126, R283). -/
def State.publish (s : State) (y : Symbol) : State :=
  { s with displayOut := if y = .drwVxVyN then s.displayOut ++ [s.disp] else s.displayOut }

/-- A timer on a tick: down by one, never below 0 (R276). -/
def tickTimer (b : Byte) : Byte := if b = 0#8 then 0#8 else b - 1#8

/-- This cycle fires the timer tick (R128, R277). -/
def State.tickDue (s : State) : Bool := decide (s.cycleCount + 1 = s.cyclesPerTick)

/-- Step 7: count the cycle; when the tick is due, decrement both timers and start the count again (R128, R276). -/
def State.countCycle (s : State) : State :=
  { s with
    dt := if s.tickDue then tickTimer s.dt else s.dt
    st := if s.tickDue then tickTimer s.st else s.st
    cycleCount := if s.tickDue then 0 else s.cycleCount + 1 }

/-- What follows the instruction of symbol `y` in a cycle that did not fault: record `LastInstr` (R125), publish (R126),
count (R128), clear the latch (R129). The `pc` was written by the instruction (R127). -/
def State.endCycle (s : State) (y : Symbol) : State :=
  (((s.setLastInstr (some y)).publish y).countCycle).setKeyLatch none

/-- The cycle after its instruction: a fault ends it at once (R130). -/
def finishCycle (y : Symbol) : Result → Result
  | .next s => .next (if s.isHalted then s else s.endCycle y)
  | .fault r => .fault r
  | .refused r => .refused r

end Sys2Proof.Machine
end

