-- ==== Sys2Proof/Machine/Step.lean ====
section
/-! DEFINITION. One step of the machine: one execution cycle (R121), which is one atomic transition. -/

namespace Sys2Proof.Machine

/-- The cycle from step 2 on, after its input was applied: a quit has ended it (R122); a fetch above 0xFFF halts (R123,
R130); else fetch, decode, execute and finish. -/
def cycleAfterInput (s : State) : Result :=
  if s.isHalted then .next s
  else
    match s.fetchFault with
    | some a => .next (s.halt (.addressOutOfRange a) none)
    | none => finishCycle (decode s.fetchWord).symbol (exec (decode s.fetchWord) s)

/-- One step: a halted machine has none (R131); a running one takes one execution cycle (R121). -/
def step (s : State) : Host.Outcome State Fault Refusal :=
  match s.status with
  | .halted d => .fault (.halted d)
  | .running => cycleAfterInput s.applyInput

/-- `s` with the instruction word of `tableWord nbits w` stored at `pc` and `pc + 1`, high byte first (R65): the next
cycle of a running machine whose next events hold no quit fetches and runs it. A `pc` above 0xFFE fetches nothing (R123),
so there nothing is stored. -/
def State.withFetchWord (s : State) (nbits w : Nat) : State :=
  match s.fetchFault with
  | some _ => s
  | none => s.setMem (s.mem.writeBytes s.pc.toNat [highByte (tableWord nbits w), lowByte (tableWord nbits w)])

end Sys2Proof.Machine
end

