-- ==== Sys2Proof/Machine/Bridge.lean ====
section
/-! DEFINITION. The input port's outer side (R279, R282): how a message of the display bridge becomes an event, and how
the host places the events of a coming cycle. -/

namespace Sys2Proof.Machine

/-- The `event_class` of a bridge message (R279); `other` is any value that is neither key-down nor key-up. -/
inductive EventClass where
  | keyDown
  | keyUp
  | other (raw : Nat)
deriving DecidableEq, Repr

/-- What the bridge delivers: a 2-field message (R279), or an I/O failure of the channel (R268). -/
inductive BridgeInput where
  | message (cls : EventClass) (keyCode : Nat)
  | failure
deriving DecidableEq, Repr

/-- The event a bridge input becomes (R268, R282): none for the pause code, which never reaches the block; a quit for the
quit code, a malformed message and an I/O failure. -/
def BridgeInput.event : BridgeInput → Option InputEvent
  | .failure => some .quit
  | .message (.other _) _ => some .quit
  | .message .keyDown c =>
    if c ≤ 0xF then some (.keyDown (BitVec.ofNat 4 c)) else if c = Config.keyPause then none else some .quit
  | .message .keyUp c =>
    if c ≤ 0xF then some (.keyUp (BitVec.ofNat 4 c)) else if c = Config.keyPause then none else some .quit

/-- The host places the events of one more coming cycle on the input port (R122, R288). -/
def State.offer (s : State) (cycle : List BridgeInput) : State :=
  { s with input := s.input ++ [cycle.filterMap BridgeInput.event] }

end Sys2Proof.Machine
end

