-- ==== Sys2Proof/Machine/Reset.lean ====
section
/-! DEFINITION. Reset as the constructor of the initial state from the host's ROM, font and configuration (R300 to R302).
This is how a program comes to run: the host loads it here; the first cycle then fetches at 0x200. -/

namespace Sys2Proof.Machine

/-- `CYCLES_PER_TICK` of a configured interval in seconds per instruction, `ceil(1 / (60 * seconds))` (R277); none when
the interval is not positive (R267). Intervals are rational here; log entry 9. -/
def cyclesPerTickOf (seconds : Rat) : Option Nat :=
  if 0 < seconds then some (1 / (60 * seconds)).ceil.toNat else none

/-- The memory image at reset (R301): the font at 0x000, the ROM at 0x200, zero elsewhere. -/
def resetImage (rom : List Byte) (font : Vector Byte Config.fontLength) : Memory :=
  Memory.writeBytes (Memory.writeBytes [] 0 font.toList) Config.romBase rom

/-- A machine halted at reset (R266, R267, R273): no `pc`, no word. The other fields have no meaning (R300); log entry 7. -/
def State.haltedAtReset (cause : Cause) : State :=
  State.reset.setStatus (.halted { cause := cause, pcAt := none, word := none })

/-- `reset(rom, font, cfg)` (R300): the configuration is checked before the ROM length. -/
def State.create (rom : List Byte) (font : Vector Byte Config.fontLength) (seconds : Rat) : State :=
  match cyclesPerTickOf seconds with
  | none => State.haltedAtReset .invalidConfig
  | some n =>
    if Config.romMax < rom.length then State.haltedAtReset (.romTooLarge rom.length)
    else { State.reset with mem := resetImage rom font, cyclesPerTick := n }

end Sys2Proof.Machine
end

