-- ==== Sys2Proof/Safety.lean ====
section
/-! DEFINITION. The terms in which claims about the machine are stated: its invariants (R37, R25), and what an instruction
may change (its frame). -/

namespace Sys2Proof.Machine

/-! ## Invariants -/

/-- The instruction at `pc` can be fetched and is a `LD Vx, K` (R37, R133). -/
def State.AtWaitInstruction (s : State) : Prop := s.pc.toNat ≤ 0xFFE ∧ ∃ x, decode s.fetchWord = .ldVxK x

/-- The invariants of R37 that the types do not already give, with the canonical form of memory. -/
structure State.Inv (s : State) : Prop where
  /-- memory is in its canonical form -/
  memory : s.mem.wf
  /-- "`stack` length <= 16" -/
  stack : s.stack.length ≤ Config.stackDepth
  /-- "`CycleCount < CYCLES_PER_TICK`" -/
  count : s.cycleCount < s.cyclesPerTick
  /-- while running, `KeyLatch` is none between cycles -/
  latch : s.status = .running → s.keyLatch = none
  /-- `WaitKey` is not none only if the instruction at `pc` is a `LD Vx, K` -/
  waiting : s.waitKey ≠ none → s.AtWaitInstruction

/-- How far `pc` can go (R25): "no instruction can set `pc` above 0x10FE", and no stack entry exceeds 0x1000. -/
structure State.PcBound (s : State) : Prop where
  pc : s.pc.toNat ≤ 0x10FE
  stack : ∀ e ∈ s.stack, e.toNat ≤ 0x1000

/-- What the cycle of a running machine without a quit does with the `pc` it starts from (R123): up to 0xFFE it runs the
instruction there, above it halts at the fetch, and the `pc` stays. -/
def State.FetchesOrHalts (s : State) : Prop :=
  (s.pc.toNat ≤ 0xFFE →
    step s = finishCycle (decode s.fetchWord).symbol (exec (decode s.fetchWord) s.applyInput)) ∧
  (0xFFE < s.pc.toNat → ∃ t, step s = .next t ∧ t.pc = s.pc ∧
    t.status = .halted ⟨.addressOutOfRange (max s.pc.toNat 0x1000), some s.pc, none⟩)

/-! ## Frames -/

/-- From `s` to `t` register `x` became `b`, `pc` advanced by 2, and nothing else changed. -/
structure State.WritesV (s t : State) (x : Nibble) (b : Byte) : Prop where
  dest : t.getV x = b
  others : ∀ r, r ≠ x → t.getV r = s.getV r
  frame : t = { s with v := t.v, pc := s.pc + 2#16 }

/-- From `s` to `t` the result went to `x`, then the flag to VF (so that for `x = 15` the flag is what remains), `pc`
advanced by 2, and nothing else changed (R145). -/
structure State.WritesFlagged (s t : State) (x : Nibble) (result flag : Byte) : Prop where
  dest : x ≠ regVF → t.getV x = result
  vf : t.getV regVF = flag
  others : ∀ r, r ≠ x → r ≠ regVF → t.getV r = s.getV r
  frame : t = { s with v := t.v, pc := s.pc + 2#16 }

/-- From `s` to `t` the machine halted with the cause `c` and nothing else changed (R273). -/
def State.HaltsWith (s t : State) (c : Cause) : Prop :=
  ∃ d : Diagnostic, d.cause = c ∧ t = { s with status := .halted d }

/-- The instruction's destination register, by its field `x` or by its range, takes in VF as an ordinary register (R22). -/
def destIsVF : Instr → Bool
  | .ldVxByte x _ | .addVxByte x _ | .ldVxVy x _ | .rndVxByte x _ | .ldVxDT x | .ldVxK x | .ldVxMemI x => x == regVF
  | _ => false

/-- The instructions that write VF as a side effect: the table of R22. -/
def flagWriters : List Symbol :=
  [.orVxVy, .andVxVy, .xorVxVy, .addVxVy, .subVxVy, .subnVxVy, .shrVxVy, .shlVxVy, .drwVxVyN]

/-- The fault an instruction's symbol can report (R272); the value recorded is left open here. -/
def canRaise : Symbol → Cause → Bool
  | .drwVxVyN, .addressOutOfRange _ | .ldBVx, .addressOutOfRange _ | .ldMemIVx, .addressOutOfRange _
  | .ldVxMemI, .addressOutOfRange _ => true
  | .callAddr, .stackOverflow => true
  | .ret, .stackUnderflow => true
  | .ldFVx, .fontDigitOutOfRange _ => true
  | .skpVx, .keyIndexOutOfRange _ | .sknpVx, .keyIndexOutOfRange _ => true
  | _, _ => false

/-! ## Sprite pixels (R222, R223) -/

/-- Pixel `c` of sprite row `r` of a draw: bit `7 - c` of the byte at `I + r`. -/
def State.spriteBit (s : State) (r c : Nat) : Bool := (s.mem.read (s.i.toNat + r)).getLsbD (7 - c)

/-- Pixel `c` of row `r` of a draw of `n` rows at `V[x]`, `V[y]` lies on the grid, at display column `col` and row
`row`. -/
def State.spriteAt (s : State) (x y n : Nibble) (r c col row : Nat) : Prop :=
  r < n.toNat ∧ c < 8 ∧ col = (s.getV x).toNat % 64 + c ∧ row = (s.getV y).toNat % 32 + r ∧ col ≤ 63 ∧ row ≤ 31

end Sys2Proof.Machine
end

