-- ==== Sys2Proof/Certificates/Slice0/Obligations.lean ====
section
/-! DEFINITION. The statements for the provers, from the numbered rules of spec/. A statement about exec holds in every
state, running or not, unless it says otherwise: only step looks at the status. -/

open Sys2Proof
open Sys2Proof.Machine

/-! ## Encoding (R65, R90 to R97) -/

/-- Sample words of table DE1, at least one for each value of the first nibble, decode as written there. The patterns are the spec's decision D1. -/
def Obligations.SampleWordsDecode : Prop :=
  decode 0x00E0 = .cls ∧ decode 0x00EE = .ret ∧ decode 0x1ABC = .jpAddr 0xABC ∧ decode 0x2210 = .callAddr 0x210 ∧
  decode 0x3A7F = .seVxByte 10 0x7F ∧ decode 0x4B00 = .sneVxByte 11 0x00 ∧ decode 0x6A2F = .ldVxByte 10 0x2F ∧
  decode 0x71FF = .addVxByte 1 0xFF ∧ decode 0x9120 = .sneVxVy 1 2 ∧ decode 0xB300 = .jpV0Addr 0x300 ∧
  decode 0x5120 = .seVxVy 1 2 ∧ decode 0x8014 = .addVxVy 0 1 ∧ decode 0xA300 = .ldIAddr 0x300 ∧
  decode 0xC30F = .rndVxByte 3 0x0F ∧ decode 0xD125 = .drwVxVyN 1 2 5 ∧ decode 0xE39E = .skpVx 3 ∧
  decode 0xF10A = .ldVxK 1 ∧ decode 0xF265 = .ldVxMemI 2 ∧ decode 0x5123 = .nop 0x5123

/-- No bit of an encoding is dropped (R91, R95): every operand of every well-formed instruction comes back. -/
def Obligations.DecodeOfEncodeIsTheInstruction : Prop :=
  ∀ i : Instr, i.WellFormed → decode (encode i) = i

/-- The decoder is total (R94), gives only well-formed instructions, and the other direction of the round trip holds. -/
def Obligations.EveryWordIsTheWordOfItsInstruction : Prop :=
  ∀ w : Word, (decode w).WellFormed ∧ encode (decode w) = w

/-- Rule R95 read as a table: the first row with `(w & mask) = match`, `NOP` when none matches, and rows that do not overlap. The table is the spec's decision D1, from general knowledge. -/
def Obligations.DecodeAgreesWithTheOpcodeMap : Prop :=
  ∀ w : Word,
    (decode w).symbol = ((opcodeRows.find? fun r => r.matches w).map (·.symbol)).getD .nop ∧
    ∀ r ∈ opcodeRows, ∀ q ∈ opcodeRows, r.matches w = true → q.matches w = true → r = q

/-- The table of R97, read by the nibbles of the word. Strict matching is the spec's decision D2. -/
def Obligations.NopWordsAreTheUnrecognizedOnes : Prop :=
  ∀ w : Word, decode w = .nop w ↔
    ((fieldN0 w).toNat = 0x0 ∧ (fieldNNN w).toNat ∉ [0x0E0, 0x0EE]) ∨
    ((fieldN0 w).toNat = 0x5 ∧ (fieldN w).toNat ≠ 0) ∨
    ((fieldN0 w).toNat = 0x8 ∧ (fieldN w).toNat ∈ [0x8, 0x9, 0xA, 0xB, 0xC, 0xD, 0xF]) ∨
    ((fieldN0 w).toNat = 0x9 ∧ (fieldN w).toNat ≠ 0) ∨
    ((fieldN0 w).toNat = 0xE ∧ (fieldKK w).toNat ∉ [0x9E, 0xA1]) ∨
    ((fieldN0 w).toNat = 0xF ∧ (fieldKK w).toNat ∉ [0x07, 0x0A, 0x15, 0x18, 0x1E, 0x29, 0x33, 0x55, 0x65])

/-- One length, two bytes, big-endian (R65, R90). -/
def Obligations.InstructionBytesDecodeToTheInstruction : Prop :=
  (∀ (i : Instr) (rest : List Byte), i.WellFormed → decodeBytes (encodeBytes i ++ rest) = .ok (i, rest)) ∧
  ∀ bs : List Byte, bs.length < 2 → decodeBytes bs = .error .truncated

/-- R65, whole. It holds in every state: the byte order cannot be switched. -/
def Obligations.FetchReadsTheBigEndianWord : Prop :=
  ∀ s : State,
    let hi := (s.mem.read s.pc.toNat).toNat
    let lo := (s.mem.read (s.pc.toNat + 1)).toNat
    s.fetchWord.toNat = hi * 256 + lo ∧
    (fieldN0 s.fetchWord).toNat = hi / 16 ∧ (fieldX s.fetchWord).toNat = hi % 16 ∧
    (fieldY s.fetchWord).toNat = lo / 16 ∧ (fieldN s.fetchWord).toNat = lo % 16

/-! ## The cycle (R121 to R131) -/

/-- The frame of R121: input (step 1), then the instruction decoded from the two bytes at `pc`, then what follows it. The order is the spec's decision D14. -/
def Obligations.StepRunsTheDecodedInstruction : Prop :=
  ∀ (s : State) (i : Instr),
    s.status = .running → .quit ∉ s.cycleEvents → s.pc.toNat ≤ 0xFFE →
    decode (wordOfBytes (s.mem.read s.pc.toNat) (s.mem.read (s.pc.toNat + 1))) = i →
    step s = finishCycle i.symbol (exec i s.applyInput) ∧
    ∀ u : State, exec i s.applyInput = .next u → step s = .next (if u.isHalted then u else u.endCycle i.symbol)

/-- Steps 4 (record), 5, 7 and 8 of R121: R125, R126, R128, R129; the spec's decisions D13, D16, D17. -/
def Obligations.EndOfCycleRecordsPublishesCountsAndClears : Prop :=
  ∀ (s t : State) (y : Symbol), t = s.endCycle y →
    t.lastInstr = some y ∧ t.keyLatch = none ∧
    (y = .drwVxVyN → t.displayOut = s.displayOut ++ [s.disp]) ∧ (y ≠ .drwVxVyN → t.displayOut = s.displayOut) ∧
    (s.cycleCount + 1 = s.cyclesPerTick →
      t.cycleCount = 0 ∧ t.dt.toNat = s.dt.toNat - 1 ∧ t.st.toNat = s.st.toNat - 1) ∧
    (s.cycleCount + 1 ≠ s.cyclesPerTick → t.cycleCount = s.cycleCount + 1 ∧ t.dt = s.dt ∧ t.st = s.st) ∧
    t = { s with
      lastInstr := t.lastInstr, keyLatch := t.keyLatch, displayOut := t.displayOut
      cycleCount := t.cycleCount, dt := t.dt, st := t.st }

/-- R276: the tick itself, its floor at 0, and how long a timer runs. -/
def Obligations.TickDecrementsBothTimersDownToZero : Prop :=
  (∀ s t : State, s.cycleCount + 1 = s.cyclesPerTick → t = s.countCycle →
      (0 < s.dt.toNat → t.dt.toNat = s.dt.toNat - 1) ∧ (s.dt.toNat = 0 → t.dt.toNat = 0) ∧
      (0 < s.st.toNat → t.st.toNat = s.st.toNat - 1) ∧ (s.st.toNat = 0 → t.st.toNat = 0) ∧
      t = { s with dt := t.dt, st := t.st, cycleCount := 0 }) ∧
  ∀ (b : Byte) (n : Nat), (tickTimer^[n] b).toNat = b.toNat - n

/-- R94, R97 (no illegal instruction), R273 (a fault is a halt), R131 (a halted machine has no step; the spec's decision D28). -/
def Obligations.EveryRunningStepAnswersANextState : Prop :=
  (∀ (i : Instr) (s : State), ∃ t, exec i s = .next t) ∧
  (∀ s : State, s.status = .running → ∃ t, step s = .next t) ∧
  ∀ (s : State) (d : Diagnostic), s.status = .halted d → step s = .fault (.halted d)

/-- R122, R268, R271; the spec's decisions D10 and D14. -/
def Obligations.QuitHaltsBeforeTheFetch : Prop :=
  ∀ (s : State) (pre post : List InputEvent) (later : List (List InputEvent)),
    s.status = .running → .quit ∉ pre → s.input = (pre ++ .quit :: post) :: later →
    ∃ t, step s = .next t ∧ t.status = .halted ⟨.quit, some s.pc, none⟩ ∧
      t = { s with
        key := (s.applyEvents pre).key, keyLatch := (s.applyEvents pre).keyLatch
        input := later, status := t.status }

/-- R123, R130, R261 (fetch). Precision of faults is the spec's decision D10. -/
def Obligations.FetchAboveTheTopHalts : Prop :=
  ∀ s : State, s.status = .running → .quit ∉ s.cycleEvents → 0xFFE < s.pc.toNat →
    ∃ t, step s = .next t ∧ t.status = .halted ⟨.addressOutOfRange (max s.pc.toNat 0x1000), some s.pc, none⟩ ∧
      t = { s with key := t.key, keyLatch := t.keyLatch, input := s.input.tail, status := t.status } ∧
      t.key = s.applyInput.key ∧ t.keyLatch = s.applyInput.keyLatch

/-- R126, R283, R311; that CLS does not publish is the spec's decision D16. -/
def Obligations.OnlyADrawCyclePublishes : Prop :=
  ∀ s t : State, step s = .next t →
    (t.status = .running ∧ (decode s.fetchWord).symbol = .drwVxVyN → t.displayOut = s.displayOut ++ [t.disp]) ∧
    (¬ (t.status = .running ∧ (decode s.fetchWord).symbol = .drwVxVyN) → t.displayOut = s.displayOut)

/-- R277 with R128: waits included, every completed cycle counts. The scheme is the spec's decision D13. -/
def Obligations.TickCountFollowsTheCycleNumber : Prop :=
  ∀ (n : Nat) (s t : State), s.cycleCount < s.cyclesPerTick → Sys2Proof.core.run n s = .next t → t.status = .running →
    t.cyclesPerTick = s.cyclesPerTick ∧ t.cycleCount = (s.cycleCount + n) % s.cyclesPerTick

/-! ## Input (R279 to R282) -/

/-- R280, R281 over a whole sequence of events (R122). That key-up leaves the latch alone is the spec's decision D15. -/
def Obligations.LatchHoldsTheLastKeyDown : Prop :=
  ∀ (s t : State) (es : List InputEvent), .quit ∉ es → t = s.applyEvents es →
    t.keyLatch = ((es.filterMap fun e => match e with | .keyDown k => some k | _ => none).getLast?).or s.keyLatch ∧
    (∀ k : Nibble, t.getKey k =
      ((es.filterMap fun e => match e with
        | .keyDown j => if j = k then some true else none
        | .keyUp j => if j = k then some false else none
        | .quit => none).getLast?).getD (s.getKey k)) ∧
    t = { s with key := t.key, keyLatch := t.keyLatch }

/-- R282 and R268. The reserved codes are uninterpreted (log entry 6); the spec's decisions D20 and D33. -/
def Obligations.BridgeMessagesBecomeEvents : Prop :=
  (∀ k : Nibble, (BridgeInput.message .keyDown k.toNat).event = some (.keyDown k) ∧
      (BridgeInput.message .keyUp k.toNat).event = some (.keyUp k)) ∧
  15 < Config.keyPause ∧ 15 < Config.keyQuit ∧ Config.keyPause ≠ Config.keyQuit ∧
  (∀ c ∈ [EventClass.keyDown, EventClass.keyUp], (BridgeInput.message c Config.keyPause).event = none ∧
      (BridgeInput.message c Config.keyQuit).event = some .quit ∧
      ∀ n, 15 < n → n ≠ Config.keyPause → (BridgeInput.message c n).event = some .quit) ∧
  (∀ r n, (BridgeInput.message (.other r) n).event = some .quit) ∧ BridgeInput.failure.event = some .quit

/-! ## Reset (R41, R63, R300 to R302) -/

/-- R41. The values are the spec's decisions D6 and D7; the font bytes are its default table (D8, log entry 4); cyclesPerTick is uninterpreted (log entry 3). -/
def Obligations.ResetLeavesTheStatedValues : Prop :=
  let s := State.reset
  (∀ r, s.getV r = 0) ∧ s.i = 0 ∧ s.pc = 0x200 ∧ s.stack = [] ∧ s.dt = 0 ∧ s.st = 0 ∧
  (∀ c, c < 2048 → s.disp.cell c = false) ∧ (∀ k, s.getKey k = false) ∧ s.keyLatch = none ∧ s.lastInstr = none ∧
  s.waitKey = none ∧ s.cycleCount = 0 ∧ s.status = .running ∧ 0 < s.cyclesPerTick ∧
  (∀ k, (h : k < defaultFont.length) → s.mem.read k = defaultFont[k]) ∧ defaultFont.length = 80 ∧
  ∀ a, 0x050 ≤ a → s.mem.read a = 0

/-- R63 and R266. -/
def Obligations.RomLoadsVerbatimOrIsRejected : Prop :=
  ∀ (rom : List Byte) (font : Vector Byte Config.fontLength) (seconds : Rat), 0 < seconds →
    (rom.length ≤ 3584 → (State.create rom font seconds).status = .running ∧
      ∀ k, (h : k < rom.length) → (State.create rom font seconds).mem.read (0x200 + k) = rom[k]) ∧
    (3584 < rom.length → (State.create rom font seconds).status = .halted ⟨.romTooLarge rom.length, none, none⟩)

/-- R300 and R301; zero at 0x050 to 0x1FF is the spec's decision D7. The ROM part is stated by RomLoadsVerbatimOrIsRejected too. -/
def Obligations.CreatedMachineIsTheResetStateWithItsImage : Prop :=
  ∀ (rom : List Byte) (font : Vector Byte Config.fontLength) (seconds : Rat) (t : State),
    0 < seconds → rom.length ≤ 3584 → t = State.create rom font seconds →
    (∀ k, (h : k < 80) → t.mem.read k = font[k]) ∧
    (∀ a, 0x050 ≤ a → a < 0x200 → t.mem.read a = 0) ∧
    (∀ k, (h : k < rom.length) → t.mem.read (0x200 + k) = rom[k]) ∧
    (∀ a, 0x200 + rom.length ≤ a → a ≤ 0xFFF → t.mem.read a = 0) ∧
    t.mem.wf ∧ t = { State.reset with mem := t.mem, cyclesPerTick := t.cyclesPerTick }

/-- R267, R277, R300; that the configuration is checked first is the spec's decision D6. Intervals are rational (log entry 9). -/
def Obligations.ConfigurationIsCheckedBeforeTheRom : Prop :=
  ∀ (rom : List Byte) (font : Vector Byte Config.fontLength) (seconds : Rat),
    (seconds ≤ 0 → (State.create rom font seconds).status = .halted ⟨.invalidConfig, none, none⟩) ∧
    (0 < seconds → rom.length ≤ 3584 →
      1 ≤ (State.create rom font seconds).cyclesPerTick ∧
      (((State.create rom font seconds).cyclesPerTick : Rat) - 1 < 1 / (60 * seconds)) ∧
      1 / (60 * seconds) ≤ ((State.create rom font seconds).cyclesPerTick : Rat))

/-! ## Invariants (R25, R37) -/

/-- R37, over every state, not only those a run reaches. -/
def Obligations.EveryStepKeepsTheInvariant : Prop :=
  ∀ s t : State, s.Inv → step s = .next t → t.Inv

/-- The bound the spec derives in R25 from R168 and R123. -/
def Obligations.EveryStepKeepsTheProgramCounterBound : Prop :=
  ∀ s t : State, s.PcBound → step s = .next t → t.PcBound

/-- With the two statements before it, both hold along every run from reset; it rests on the reset values (D6). -/
def Obligations.ResetMeetsTheInvariants : Prop :=
  State.reset.Inv ∧ State.reset.PcBound

/-! ## Control transfer (R160 to R168) -/

/-- R160, whole: the encoding (any word no row 1 to 34 has), the operation, no flag, no fault. -/
def Obligations.NopOnlyAdvances : Prop :=
  ∀ (w : Word) (s : State), recognized w = false →
    decode w = .nop w ∧ exec (.nop w) s = .next { s with pc := s.pc + 2#16 }

/-- R162 and R168, with their encodings. -/
def Obligations.JumpsReplaceThePc : Prop :=
  ∀ (nnn : Addr12) (s : State),
    (encode (.jpAddr nnn) = 0x1#4 ++ nnn ∧ ∃ t, exec (.jpAddr nnn) s = .next t ∧ t.pc.toNat = nnn.toNat ∧
      t = { s with pc := t.pc }) ∧
    (encode (.jpV0Addr nnn) = 0xB#4 ++ nnn ∧ ∃ t, exec (.jpV0Addr nnn) s = .next t ∧
      t.pc.toNat = (nnn.toNat + (s.getV 0).toNat) % 65536 ∧ t = { s with pc := t.pc })

/-- R163 and R262. The newest entry is the head of the list. -/
def Obligations.CallPushesTheReturnAddress : Prop :=
  ∀ (nnn : Addr12) (s : State), encode (.callAddr nnn) = 0x2#4 ++ nnn ∧
    (s.stack.length < 16 → ∃ t, exec (.callAddr nnn) s = .next t ∧ t.pc.toNat = nnn.toNat ∧
      (∃ e : Word, e.toNat = (s.pc.toNat + 2) % 65536 ∧ t.stack = e :: s.stack) ∧
      t = { s with pc := t.pc, stack := t.stack }) ∧
    (16 ≤ s.stack.length → ∃ t, exec (.callAddr nnn) s = .next t ∧ s.HaltsWith t .stackOverflow)

/-- R161 and R263. -/
def Obligations.RetPopsIntoThePc : Prop :=
  ∀ s : State, encode .ret = 0x00EE#16 ∧
    (∀ (e : Word) (rest : List Word), s.stack = e :: rest →
      exec .ret s = .next { s with pc := e, stack := rest }) ∧
    (s.stack = [] → ∃ t, exec .ret s = .next t ∧ s.HaltsWith t .stackUnderflow)

/-- R164 to R167, with their encodings. -/
def Obligations.SkipsTestRegistersAndMoveThePcBy4Or2 : Prop :=
  ∀ (x y : Nibble) (kk : Byte) (s : State),
    (encode (.seVxByte x kk) = 0x3#4 ++ x ++ kk ∧
      (s.getV x = kk → exec (.seVxByte x kk) s = .next { s with pc := s.pc + 4#16 }) ∧
      (s.getV x ≠ kk → exec (.seVxByte x kk) s = .next { s with pc := s.pc + 2#16 })) ∧
    (encode (.sneVxByte x kk) = 0x4#4 ++ x ++ kk ∧
      (s.getV x ≠ kk → exec (.sneVxByte x kk) s = .next { s with pc := s.pc + 4#16 }) ∧
      (s.getV x = kk → exec (.sneVxByte x kk) s = .next { s with pc := s.pc + 2#16 })) ∧
    (encode (.seVxVy x y) = 0x5#4 ++ x ++ y ++ 0x0#4 ∧
      (s.getV x = s.getV y → exec (.seVxVy x y) s = .next { s with pc := s.pc + 4#16 }) ∧
      (s.getV x ≠ s.getV y → exec (.seVxVy x y) s = .next { s with pc := s.pc + 2#16 })) ∧
    (encode (.sneVxVy x y) = 0x9#4 ++ x ++ y ++ 0x0#4 ∧
      (s.getV x ≠ s.getV y → exec (.sneVxVy x y) s = .next { s with pc := s.pc + 4#16 }) ∧
      (s.getV x = s.getV y → exec (.sneVxVy x y) s = .next { s with pc := s.pc + 2#16 }))

/-- R127 and the restated invariant of R37 (C6). -/
def Obligations.ProgramCounterAdvancesUniformly : Prop :=
  ∀ (i : Instr) (s t : State), exec i s = .next t → s.status = .running → t.status = .running →
    i.symbol ∉ [.jpAddr, .callAddr, .ret, .jpV0Addr] →
    t.pc = s.pc + 2#16 ∨
    (i.symbol ∈ [.seVxByte, .sneVxByte, .seVxVy, .sneVxVy, .skpVx, .sknpVx] ∧ t.pc = s.pc + 4#16) ∨
    (i.symbol = .ldVxK ∧ t.pc = s.pc)

/-! ## Loads and ALU (R140 to R147, R180 to R191) -/

/-- R180 and R242, with their encodings and frame; x = 15 writes VF as an ordinary register. -/
def Obligations.ByteAndTimerLoadsWriteOneRegister : Prop :=
  ∀ (x : Nibble) (kk : Byte) (s : State),
    (encode (.ldVxByte x kk) = 0x6#4 ++ x ++ kk ∧
      ∃ t, exec (.ldVxByte x kk) s = .next t ∧ s.WritesV t x kk) ∧
    (encode (.ldVxDT x) = 0xF#4 ++ x ++ 0x07#8 ∧
      ∃ t, exec (.ldVxDT x) s = .next t ∧ s.WritesV t x s.dt)

/-- R182; that it writes no flag is the spec's own inference there. -/
def Obligations.CopyWritesOneRegister : Prop :=
  ∀ (x y : Nibble) (s : State), encode (.ldVxVy x y) = 0x8#4 ++ x ++ y ++ 0x0#4 ∧
    ∃ t, exec (.ldVxVy x y) s = .next t ∧ s.WritesV t x (s.getV y)

/-- R181, with its encoding and frame. -/
def Obligations.AddImmediateWrapsWithoutAFlag : Prop :=
  ∀ (x : Nibble) (kk : Byte) (s : State), encode (.addVxByte x kk) = 0x7#4 ++ x ++ kk ∧
    ∃ (t : State) (b : Byte), exec (.addVxByte x kk) s = .next t ∧ b.toNat = ((s.getV x).toNat + kk.toNat) % 256 ∧
      s.WritesV t x b

/-- R183 to R185 with R144 and R145: for `x = 15` the flag wins. -/
def Obligations.LogicOpsClearVF : Prop :=
  ∀ (x y : Nibble) (s : State),
    (encode (.orVxVy x y) = 0x8#4 ++ x ++ y ++ 0x1#4 ∧ ∃ (t : State) (b : Byte), exec (.orVxVy x y) s = .next t ∧
      (∀ k, k < 8 → b.getLsbD k = ((s.getV x).getLsbD k || (s.getV y).getLsbD k)) ∧ s.WritesFlagged t x b 0) ∧
    (encode (.andVxVy x y) = 0x8#4 ++ x ++ y ++ 0x2#4 ∧ ∃ (t : State) (b : Byte), exec (.andVxVy x y) s = .next t ∧
      (∀ k, k < 8 → b.getLsbD k = ((s.getV x).getLsbD k && (s.getV y).getLsbD k)) ∧ s.WritesFlagged t x b 0) ∧
    (encode (.xorVxVy x y) = 0x8#4 ++ x ++ y ++ 0x3#4 ∧ ∃ (t : State) (b : Byte), exec (.xorVxVy x y) s = .next t ∧
      (∀ k, k < 8 → b.getLsbD k = ((s.getV x).getLsbD k != (s.getV y).getLsbD k)) ∧ s.WritesFlagged t x b 0)

/-- R186 with R140 and R145, operands read before any write. -/
def Obligations.AddRegistersSetsCarry : Prop :=
  ∀ (x y : Nibble) (s : State), encode (.addVxVy x y) = 0x8#4 ++ x ++ y ++ 0x4#4 ∧
    ∃ (t : State) (b : Byte), exec (.addVxVy x y) s = .next t ∧
      b.toNat = ((s.getV x).toNat + (s.getV y).toNat) % 256 ∧
      s.WritesFlagged t x b (if 255 < (s.getV x).toNat + (s.getV y).toNat then 1 else 0)

/-- R187 and R189 with R141 and R145. -/
def Obligations.SubtractionsSetNoBorrow : Prop :=
  ∀ (x y : Nibble) (s : State),
    (encode (.subVxVy x y) = 0x8#4 ++ x ++ y ++ 0x5#4 ∧ ∃ (t : State) (b : Byte), exec (.subVxVy x y) s = .next t ∧
      b.toNat = (if (s.getV y).toNat ≤ (s.getV x).toNat then (s.getV x).toNat - (s.getV y).toNat
        else (s.getV x).toNat + 256 - (s.getV y).toNat) ∧
      s.WritesFlagged t x b (if (s.getV y).toNat ≤ (s.getV x).toNat then 1 else 0)) ∧
    (encode (.subnVxVy x y) = 0x8#4 ++ x ++ y ++ 0x7#4 ∧ ∃ (t : State) (b : Byte), exec (.subnVxVy x y) s = .next t ∧
      b.toNat = (if (s.getV x).toNat ≤ (s.getV y).toNat then (s.getV y).toNat - (s.getV x).toNat
        else (s.getV y).toNat + 256 - (s.getV x).toNat) ∧
      s.WritesFlagged t x b (if (s.getV x).toNat ≤ (s.getV y).toNat then 1 else 0))

/-- R188 and R190 with R142, R143 and R145: the source is `V[y]`. -/
def Obligations.ShiftsReadVyAndSetTheBitShiftedOut : Prop :=
  ∀ (x y : Nibble) (s : State),
    (encode (.shrVxVy x y) = 0x8#4 ++ x ++ y ++ 0x6#4 ∧ ∃ (t : State) (b : Byte), exec (.shrVxVy x y) s = .next t ∧
      b.toNat = (s.getV y).toNat / 2 ∧ s.WritesFlagged t x b (if (s.getV y).toNat % 2 = 1 then 1 else 0)) ∧
    (encode (.shlVxVy x y) = 0x8#4 ++ x ++ y ++ 0xE#4 ∧ ∃ (t : State) (b : Byte), exec (.shlVxVy x y) s = .next t ∧
      b.toNat = 2 * (s.getV y).toNat % 256 ∧ s.WritesFlagged t x b (if 128 ≤ (s.getV y).toNat then 1 else 0))

/-- R191 and R284. The byte is the free value of log entry 1; the statement holds whatever it is. -/
def Obligations.RandomByteIsMasked : Prop :=
  ∀ (x : Nibble) (kk : Byte) (s : State), encode (.rndVxByte x kk) = 0xC#4 ++ x ++ kk ∧
    ∃ t, exec (.rndVxByte x kk) s = .next t ∧ t.getV x = Config.randomByte s.randDraws &&& kk ∧
      (∀ k, k < 8 → kk.getLsbD k = false → (t.getV x).getLsbD k = false) ∧
      (∀ r, r ≠ x → t.getV r = s.getV r) ∧
      t = { s with v := t.v, pc := s.pc + 2#16, randDraws := s.randDraws + 1 }

/-- R22: the table of the instructions that write VF as a side effect is complete. -/
def Obligations.OnlyFlagInstructionsWriteVFAsAFlag : Prop :=
  ∀ (i : Instr) (s t : State), exec i s = .next t → i.symbol ∉ flagWriters → destIsVF i = false →
    t.getV regVF = s.getV regVF

/-! ## Index register and memory (R64, R147, R149, R200 to R205) -/

/-- R200 and R201, with their encodings and frame. -/
def Obligations.IndexLoadsAndAdds : Prop :=
  ∀ (nnn : Addr12) (x : Nibble) (s : State),
    (encode (.ldIAddr nnn) = 0xA#4 ++ nnn ∧ ∃ t, exec (.ldIAddr nnn) s = .next t ∧ t.i.toNat = nnn.toNat ∧
      t = { s with i := t.i, pc := s.pc + 2#16 }) ∧
    (encode (.addIVx x) = 0xF#4 ++ x ++ 0x1E#8 ∧ ∃ t, exec (.addIVx x) s = .next t ∧
      t.i.toNat = (s.i.toNat + (s.getV x).toNat) % 65536 ∧ t = { s with i := t.i, pc := s.pc + 2#16 })

/-- R202 and R264; that the case above 15 is fatal is the spec's decision D12. -/
def Obligations.FontAddressOrHalt : Prop :=
  ∀ (x : Nibble) (s : State), encode (.ldFVx x) = 0xF#4 ++ x ++ 0x29#8 ∧
    ((s.getV x).toNat ≤ 15 → ∃ t, exec (.ldFVx x) s = .next t ∧ t.i.toNat = 5 * (s.getV x).toNat ∧
      t = { s with i := t.i, pc := s.pc + 2#16 }) ∧
    (15 < (s.getV x).toNat → ∃ t, exec (.ldFVx x) s = .next t ∧ s.HaltsWith t (.fontDigitOutOfRange (s.getV x)))

/-- R203 with R149, with its frame: every address outside the three reads as before. -/
def Obligations.StoreBcdWritesThreeDigits : Prop :=
  ∀ (x : Nibble) (s : State), encode (.ldBVx x) = 0xF#4 ++ x ++ 0x33#8 ∧
    (s.i.toNat ≤ 0xFFD → ∃ t, exec (.ldBVx x) s = .next t ∧
      (t.mem.read s.i.toNat).toNat = (s.getV x).toNat / 100 ∧
      (t.mem.read (s.i.toNat + 1)).toNat = (s.getV x).toNat / 10 % 10 ∧
      (t.mem.read (s.i.toNat + 2)).toNat = (s.getV x).toNat % 10 ∧
      (∀ a, a < s.i.toNat ∨ s.i.toNat + 2 < a → t.mem.read a = s.mem.read a) ∧
      t = { s with mem := t.mem, pc := s.pc + 2#16 }) ∧
    (0xFFD < s.i.toNat → ∃ t, exec (.ldBVx x) s = .next t ∧
      s.HaltsWith t (.addressOutOfRange (max s.i.toNat 0x1000)))

/-- R204, with its frame. The increment is the field `x` plus 1 (C10). -/
def Obligations.StoreRegistersWritesTheRange : Prop :=
  ∀ (x : Nibble) (s : State), encode (.ldMemIVx x) = 0xF#4 ++ x ++ 0x55#8 ∧
    (s.i.toNat + x.toNat ≤ 0xFFF → ∃ t, exec (.ldMemIVx x) s = .next t ∧
      (∀ k : Nibble, k.toNat ≤ x.toNat → t.mem.read (s.i.toNat + k.toNat) = s.getV k) ∧
      (∀ a, a < s.i.toNat ∨ s.i.toNat + x.toNat < a → t.mem.read a = s.mem.read a) ∧
      t.i.toNat = (s.i.toNat + (x.toNat + 1)) % 65536 ∧
      t = { s with mem := t.mem, i := t.i, pc := s.pc + 2#16 }) ∧
    (0xFFF < s.i.toNat + x.toNat → ∃ t, exec (.ldMemIVx x) s = .next t ∧
      s.HaltsWith t (.addressOutOfRange (max s.i.toNat 0x1000)))

/-- R205, with its frame. -/
def Obligations.LoadRegistersReadsTheRange : Prop :=
  ∀ (x : Nibble) (s : State), encode (.ldVxMemI x) = 0xF#4 ++ x ++ 0x65#8 ∧
    (s.i.toNat + x.toNat ≤ 0xFFF → ∃ t, exec (.ldVxMemI x) s = .next t ∧
      (∀ k : Nibble, k.toNat ≤ x.toNat → t.getV k = s.mem.read (s.i.toNat + k.toNat)) ∧
      (∀ k : Nibble, x.toNat < k.toNat → t.getV k = s.getV k) ∧
      t.i.toNat = (s.i.toNat + (x.toNat + 1)) % 65536 ∧
      t = { s with v := t.v, i := t.i, pc := s.pc + 2#16 }) ∧
    (0xFFF < s.i.toNat + x.toNat → ∃ t, exec (.ldVxMemI x) s = .next t ∧
      s.HaltsWith t (.addressOutOfRange (max s.i.toNat 0x1000)))

/-- The access table of R68, with the canonical form that every instruction keeps. -/
def Obligations.OnlyTwoInstructionsWriteMemory : Prop :=
  ∀ (i : Instr) (s t : State), exec i s = .next t →
    (i.symbol ∉ [.ldBVx, .ldMemIVx] → t.mem = s.mem) ∧ (s.mem.wf → t.mem.wf)

/-- The canonical form is the model's own: 4096 bytes (R60) are one list of cells and no other. -/
def Obligations.MemoriesThatReadAlikeAreEqual : Prop :=
  ∀ m n : Memory, m.wf → n.wf → (∀ a, a ≤ 0xFFF → m.read a = n.read a) → m = n

/-- R75: a program may overwrite its own next instruction. Immediate visibility is the spec's decision D22. -/
def Obligations.AStoreIsSeenByTheNextFetch : Prop :=
  ∀ (x k k' : Nibble) (s t : State), exec (.ldMemIVx x) s = .next t → s.status = .running → t.status = .running →
    k'.toNat = k.toNat + 1 → k'.toNat ≤ x.toNat → t.pc.toNat = s.i.toNat + k.toNat →
    t.fetchWord.toNat = (s.getV k).toNat * 256 + (s.getV k').toNat

/-! ## Display (R220 to R227) -/

/-- R220, with its encoding and frame. -/
def Obligations.ClearScreenZeroesEveryCell : Prop :=
  ∀ s : State, encode .cls = 0x00E0#16 ∧ ∃ t, exec .cls s = .next t ∧ (∀ c, c < 2048 → t.disp.cell c = false) ∧
    t = { s with disp := t.disp, pc := s.pc + 2#16 } ∧ (t.endCycle .cls).displayOut = s.displayOut

/-- R221 with R223, R224, R225. Pixels off the grid take no part: they do not wrap and do not collide. That bit 7 is the leftmost pixel (R222) is the spec's decision D9; that all n rows are read, clipped ones too, so that any of them above 0xFFF halts (R227), is its decision D11. -/
def Obligations.DrawXorsTheSpriteAndReportsCollision : Prop :=
  ∀ (x y n : Nibble) (s : State), encode (.drwVxVyN x y n) = 0xD#4 ++ x ++ y ++ n ∧
    (n.toNat = 0 ∨ s.i.toNat + n.toNat - 1 ≤ 0xFFF → ∃ t, exec (.drwVxVyN x y n) s = .next t ∧
      (∀ r c col row, s.spriteAt x y n r c col row →
        t.disp.cell (64 * row + col) = (s.disp.cell (64 * row + col) ^^ s.spriteBit r c)) ∧
      (∀ q, q < 2048 → (∀ r c col row, s.spriteAt x y n r c col row → q ≠ 64 * row + col) →
        t.disp.cell q = s.disp.cell q) ∧
      ((∃ r c col row, s.spriteAt x y n r c col row ∧ s.spriteBit r c = true ∧
        s.disp.cell (64 * row + col) = true) → t.getV regVF = 1) ∧
      (¬ (∃ r c col row, s.spriteAt x y n r c col row ∧ s.spriteBit r c = true ∧
        s.disp.cell (64 * row + col) = true) → t.getV regVF = 0) ∧
      (∀ r, r ≠ regVF → t.getV r = s.getV r) ∧
      t = { s with disp := t.disp, v := t.v, pc := s.pc + 2#16 } ∧
      (t.endCycle .drwVxVyN).displayOut = s.displayOut ++ [t.disp]) ∧
    (0 < n.toNat ∧ 0xFFF < s.i.toNat + n.toNat - 1 → ∃ t, exec (.drwVxVyN x y n) s = .next t ∧
      s.HaltsWith t (.addressOutOfRange (max s.i.toNat 0x1000)))

/-- R226 (a), as C7 reads it; the spec derives it from R225 and R224. -/
def Obligations.DrawingTwiceRestoresTheDisplay : Prop :=
  ∀ (x y n : Nibble) (s : State), x ≠ regVF → y ≠ regVF → n.toNat = 0 ∨ s.i.toNat + n.toNat ≤ 0x1000 →
    ∃ t u, exec (.drwVxVyN x y n) s = .next t ∧ exec (.drwVxVyN x y n) t = .next u ∧ u.disp = s.disp ∧
      (u.getV regVF = 1 ↔ ∃ r c col row, s.spriteAt x y n r c col row ∧ s.spriteBit r c = true ∧
        s.disp.cell (64 * row + col) = false)

/-! ## Keypad and timers (R240 to R245) -/

/-- R240, R241, R265; that an index above 15 is a fault is the spec's decision D12. -/
def Obligations.KeySkipsTestTheLevel : Prop :=
  ∀ (x k : Nibble) (s : State),
    encode (.skpVx x) = 0xE#4 ++ x ++ 0x9E#8 ∧ encode (.sknpVx x) = 0xE#4 ++ x ++ 0xA1#8 ∧
    ((s.getV x).toNat = k.toNat →
      exec (.skpVx x) s = .next { s with pc := if s.getKey k then s.pc + 4#16 else s.pc + 2#16 } ∧
      exec (.sknpVx x) s = .next { s with pc := if s.getKey k then s.pc + 2#16 else s.pc + 4#16 }) ∧
    (15 < (s.getV x).toNat →
      (∃ t, exec (.skpVx x) s = .next t ∧ s.HaltsWith t (.keyIndexOutOfRange (s.getV x))) ∧
      ∃ t, exec (.sknpVx x) s = .next t ∧ s.HaltsWith t (.keyIndexOutOfRange (s.getV x)))

/-- R243, all four cases of one poll; the spec's decision D15. -/
def Obligations.WaitForKeyTakesThenResolves : Prop :=
  ∀ (x : Nibble) (s : State), encode (.ldVxK x) = 0xF#4 ++ x ++ 0x0A#8 ∧
    (s.waitKey = none → s.keyLatch = none → exec (.ldVxK x) s = .next s) ∧
    (∀ k, s.waitKey = none → s.keyLatch = some k →
      exec (.ldVxK x) s = .next { s with waitKey := some k, keyLatch := none }) ∧
    (∀ k, s.waitKey = some k → s.getKey k = true → exec (.ldVxK x) s = .next s) ∧
    (∀ k, s.waitKey = some k → s.getKey k = false → ∃ t, exec (.ldVxK x) s = .next t ∧
      (t.getV x).toNat = k.toNat ∧ (∀ r, r ≠ x → t.getV r = s.getV r) ∧
      t = { s with v := t.v, waitKey := none, pc := s.pc + 2#16 })

/-- R244 and R245, with their encodings, frame and corner cases: the tick of the same cycle comes after the write (R128), and the tone goes off when the ticks bring ST to 0 or when 0 is written (R278). The place of the tick is the spec's decision D13, the tone as a level its decision D27. -/
def Obligations.TimerLoadsWriteOneTimer : Prop :=
  ∀ (x : Nibble) (s : State),
    (encode (.ldDTVx x) = 0xF#4 ++ x ++ 0x15#8 ∧
      ∃ t, exec (.ldDTVx x) s = .next t ∧ t = { s with dt := s.getV x, pc := s.pc + 2#16 } ∧
      (t.endCycle .ldDTVx).dt.toNat =
        if s.cycleCount + 1 = s.cyclesPerTick then (s.getV x).toNat - 1 else (s.getV x).toNat) ∧
    (encode (.ldSTVx x) = 0xF#4 ++ x ++ 0x18#8 ∧ ∃ t, exec (.ldSTVx x) s = .next t ∧
      t = { s with st := s.getV x, pc := s.pc + 2#16 } ∧ (t.tone = true ↔ s.getV x ≠ 0) ∧
      (t.endCycle .ldSTVx).st.toNat =
        (if s.cycleCount + 1 = s.cyclesPerTick then (s.getV x).toNat - 1 else (s.getV x).toNat) ∧
      ((t.endCycle .ldSTVx).tone = true ↔ (t.endCycle .ldSTVx).st ≠ 0) ∧
      ∀ n : Nat, (t.setST (tickTimer^[n] t.st)).tone = true ↔ n < (s.getV x).toNat)

/-! ## The whole machine (R38, R130, R272, R273) -/

/-- R24, R26 to R31, R33, R34, R38: who writes what, over all instructions. -/
def Obligations.EachSpecialStateHasItsOwnWriters : Prop :=
  ∀ (i : Instr) (s t : State), exec i s = .next t →
    (i.symbol ∉ [.ldIAddr, .addIVx, .ldFVx, .ldMemIVx, .ldVxMemI] → t.i = s.i) ∧
    (i.symbol ∉ [.callAddr, .ret] → t.stack = s.stack) ∧ (i.symbol ≠ .ldDTVx → t.dt = s.dt) ∧
    (i.symbol ≠ .ldSTVx → t.st = s.st) ∧ (i.symbol ∉ [.cls, .drwVxVyN] → t.disp = s.disp) ∧
    (i.symbol ≠ .ldVxK → t.keyLatch = s.keyLatch ∧ t.waitKey = s.waitKey) ∧
    (i.symbol ≠ .rndVxByte → t.randDraws = s.randDraws) ∧ t.key = s.key ∧ t.lastInstr = s.lastInstr ∧
    t.cycleCount = s.cycleCount ∧ t.cyclesPerTick = s.cyclesPerTick ∧ t.input = s.input ∧ t.displayOut = s.displayOut

/-- R130, R272, R273; the spec's decision D10. -/
def Obligations.FaultsArePrecise : Prop :=
  ∀ (i : Instr) (s t : State), s.status = .running → exec i s = .next t → t.status ≠ .running →
    (∃ c, canRaise i.symbol c = true ∧ t = { s with status := .halted ⟨c, some s.pc, some (encode i)⟩ }) ∧
    finishCycle i.symbol (exec i s) = .next t

/-- R270, R30, R31: the program learns of events by polling alone. -/
def Obligations.OnlyPollingInstructionsSeeTheKeypad : Prop :=
  ∀ (i : Instr) (s t : State) (key : Vector Bool 16) (latch : Option Nibble),
    i.symbol ∉ [.skpVx, .sknpVx, .ldVxK] → exec i s = .next t →
    exec i { s with key := key, keyLatch := latch } = .next { t with key := key, keyLatch := latch }

/-- R32 (no instruction reads it) and R283 (an output). -/
def Obligations.ObserversDoNotInfluenceTheRun : Prop :=
  ∀ (s t : State) (last : Option Symbol) (sent : List Display), step s = .next t →
    ∃ u, step { s with lastInstr := last, displayOut := sent } = .next u ∧
      u = { t with lastInstr := u.lastInstr, displayOut := u.displayOut }

/-! ## Addresses out of range, where they are used (R123, R168, R169, R306) -/

/-- R162 and R168 (the target, no fault at the jump), R169 (no target is checked), R123 (what the next fetch does); that an odd target runs is the spec's decision D5, precision of the halt D10. `s` is the state after its cycle's input, so that its events are those of the next cycle. -/
def Obligations.JumpsCompleteAndTheirTargetMeetsTheNextFetch : Prop :=
  ∀ (nnn : Addr12) (s : State),
    (∃ t, exec (.jpAddr nnn) s = .next t ∧ t.pc.toNat = nnn.toNat ∧ t = { s with pc := t.pc } ∧
      (s.status = .running → .quit ∉ s.cycleEvents → (t.endCycle .jpAddr).FetchesOrHalts)) ∧
    (∃ t, exec (.jpV0Addr nnn) s = .next t ∧ t.pc.toNat = nnn.toNat + (s.getV 0).toNat ∧ t = { s with pc := t.pc } ∧
      (s.status = .running → .quit ∉ s.cycleEvents → (t.endCycle .jpV0Addr).FetchesOrHalts))

/-- R200 (the value loaded is always a valid address), R201 and R24 (a value above 0xFFF is legal to hold), R306 and R64 (the next use faults, the address never wraps: the spec's decision D31). -/
def Obligations.IndexMayPassTheTopUntilItIsUsed : Prop :=
  ∀ (nnn : Addr12) (x : Nibble) (s : State),
    (∃ t, exec (.ldIAddr nnn) s = .next t ∧ t.i.toNat = nnn.toNat ∧ t = { s with i := t.i, pc := s.pc + 2#16 } ∧
      ∃ u, exec (.ldVxMemI 0) t = .next u ∧ u.getV 0 = s.mem.read nnn.toNat ∧ u.status = s.status) ∧
    (∃ t, exec (.addIVx x) s = .next t ∧ t.i.toNat = (s.i.toNat + (s.getV x).toNat) % 65536 ∧
      t.getV regVF = s.getV regVF ∧ t = { s with i := t.i, pc := s.pc + 2#16 } ∧
      (0xFFF < t.i.toNat → ∀ y z n : Nibble,
        (∃ u, exec (.ldBVx y) t = .next u ∧ t.HaltsWith u (.addressOutOfRange t.i.toNat)) ∧
        (∃ u, exec (.ldMemIVx y) t = .next u ∧ t.HaltsWith u (.addressOutOfRange t.i.toNat)) ∧
        (∃ u, exec (.ldVxMemI y) t = .next u ∧ t.HaltsWith u (.addressOutOfRange t.i.toNat)) ∧
        (0 < n.toNat → ∃ u, exec (.drwVxVyN y z n) t = .next u ∧ t.HaltsWith u (.addressOutOfRange t.i.toNat)) ∧
        ∃ u, exec (.drwVxVyN y z 0) t = .next u ∧ u.status = s.status))
end

