-- ==== Sys2Proof/Laws/Decode.lean ====
section
/-! SUPPORT. The fields of a word as numbers (R91), words put together from their fields, and the two bytes of a word
(R65). -/

namespace Sys2Proof

/-! ## Fields as numbers -/

theorem fieldN0_toNat (w : Word) : (fieldN0 w).toNat = w.toNat / 4096 := by
  have := w.isLt
  simp [fieldN0, BitVec.extractLsb'_toNat, Nat.shiftRight_eq_div_pow]; omega

theorem fieldX_toNat (w : Word) : (fieldX w).toNat = w.toNat / 256 % 16 := by
  simp [fieldX, BitVec.extractLsb'_toNat, Nat.shiftRight_eq_div_pow]

theorem fieldY_toNat (w : Word) : (fieldY w).toNat = w.toNat / 16 % 16 := by
  simp [fieldY, BitVec.extractLsb'_toNat, Nat.shiftRight_eq_div_pow]

theorem fieldN_toNat (w : Word) : (fieldN w).toNat = w.toNat % 16 := by
  simp [fieldN, BitVec.extractLsb'_toNat]

theorem fieldKK_toNat (w : Word) : (fieldKK w).toNat = w.toNat % 256 := by
  simp [fieldKK, BitVec.extractLsb'_toNat]

theorem fieldNNN_toNat (w : Word) : (fieldNNN w).toNat = w.toNat % 4096 := by
  simp [fieldNNN, BitVec.extractLsb'_toNat]

/-! ## Words from fields -/

theorem append_toNat {m n : Nat} (p : BitVec m) (q : BitVec n) : (p ++ q).toNat = p.toNat * 2 ^ n + q.toNat := by
  rw [BitVec.toNat_append, ← Nat.shiftLeft_add_eq_or_of_lt q.isLt, Nat.shiftLeft_eq]

section
variable (a b c d : Nibble) (kk : Byte) (nnn : Addr12)

theorem nibbles_toNat :
    BitVec.toNat (w := 16) (a ++ b ++ c ++ d) = a.toNat * 4096 + b.toNat * 256 + c.toNat * 16 + d.toNat := by
  have h1 := append_toNat (a ++ b ++ c) d
  have h2 := append_toNat (a ++ b) c
  have h3 := append_toNat a b
  refine h1.trans ?_
  rw [h2, h3]
  omega

theorem byteWord_toNat : BitVec.toNat (w := 16) (a ++ b ++ kk) = a.toNat * 4096 + b.toNat * 256 + kk.toNat := by
  have h2 := append_toNat (a ++ b) kk
  have h3 := append_toNat a b
  refine h2.trans ?_
  rw [h3]
  omega

theorem addrWord_toNat : BitVec.toNat (w := 16) (a ++ nnn) = a.toNat * 4096 + nnn.toNat := append_toNat a nnn

@[simp] theorem fieldN0_nibbles : fieldN0 (a ++ b ++ c ++ d) = a := by
  apply BitVec.eq_of_toNat_eq; rw [fieldN0_toNat, nibbles_toNat]; omega
@[simp] theorem fieldX_nibbles : fieldX (a ++ b ++ c ++ d) = b := by
  apply BitVec.eq_of_toNat_eq; rw [fieldX_toNat, nibbles_toNat]; omega
@[simp] theorem fieldY_nibbles : fieldY (a ++ b ++ c ++ d) = c := by
  apply BitVec.eq_of_toNat_eq; rw [fieldY_toNat, nibbles_toNat]; omega
@[simp] theorem fieldN_nibbles : fieldN (a ++ b ++ c ++ d) = d := by
  apply BitVec.eq_of_toNat_eq; rw [fieldN_toNat, nibbles_toNat]; omega

@[simp] theorem fieldN0_byte : fieldN0 (a ++ b ++ kk) = a := by
  apply BitVec.eq_of_toNat_eq; rw [fieldN0_toNat, byteWord_toNat]; omega
@[simp] theorem fieldX_byte : fieldX (a ++ b ++ kk) = b := by
  apply BitVec.eq_of_toNat_eq; rw [fieldX_toNat, byteWord_toNat]; omega
@[simp] theorem fieldKK_byte : fieldKK (a ++ b ++ kk) = kk := by
  apply BitVec.eq_of_toNat_eq; rw [fieldKK_toNat, byteWord_toNat]; omega

@[simp] theorem fieldN0_addr : fieldN0 (a ++ nnn) = a := by
  apply BitVec.eq_of_toNat_eq; rw [fieldN0_toNat, addrWord_toNat]; omega
@[simp] theorem fieldNNN_addr : fieldNNN (a ++ nnn) = nnn := by
  apply BitVec.eq_of_toNat_eq; rw [fieldNNN_toNat, addrWord_toNat]; omega
end

/-! ## Bytes (R65) -/

theorem wordOfBytes_toNat (hi lo : Byte) : (wordOfBytes hi lo).toNat = hi.toNat * 256 + lo.toNat := append_toNat hi lo

@[simp] theorem wordOfBytes_bytes (w : Word) : wordOfBytes (highByte w) (lowByte w) = w := by
  apply BitVec.eq_of_toNat_eq
  have := w.isLt
  rw [wordOfBytes_toNat]
  simp [highByte, lowByte, BitVec.extractLsb'_toNat, Nat.shiftRight_eq_div_pow]
  omega

/-! ## Masks (R92) -/

theorem mask_n0 (w : Word) : w &&& 0xF000#16 = fieldN0 w ++ 0#12 := by
  apply BitVec.eq_of_getLsbD_eq
  intro k hk
  rw [BitVec.getLsbD_append]
  interval_cases k <;> simp [fieldN0]

theorem mask_n0_n (w : Word) : w &&& 0xF00F#16 = fieldN0 w ++ 0#8 ++ fieldN w := by
  apply BitVec.eq_of_getLsbD_eq
  intro k hk
  rw [BitVec.getLsbD_append, BitVec.getLsbD_append]
  interval_cases k <;> simp [fieldN0, fieldN]

theorem mask_n0_kk (w : Word) : w &&& 0xF0FF#16 = fieldN0 w ++ 0#4 ++ fieldKK w := by
  apply BitVec.eq_of_getLsbD_eq
  intro k hk
  rw [BitVec.getLsbD_append, BitVec.getLsbD_append]
  interval_cases k <;> simp [fieldN0, fieldKK]

theorem mask_all (w : Word) : w &&& 0xFFFF#16 = w := by
  apply BitVec.eq_of_getLsbD_eq
  intro k hk
  interval_cases k <;> simp

end Sys2Proof
end

