-- ==== Sys2Proof/Laws/Display.lean ====
section
/-! SUPPORT. What the display operations do, cell by cell (R224, R225). -/

namespace Sys2Proof.Machine

/-- A cell of the blank display is 0. -/
@[simp] theorem Display.get_blank (col row : Nat) : Display.blank.get col row = false := by
  simp only [Display.get, Display.blank, Vector.getElem?_replicate]
  split <;> simp

/-- Inverting a cell of the grid inverts that cell and no other. -/
theorem Display.get_flip (d : Display) {col row : Nat} (hc : col < 64) (hr : row < 32) (c r : Nat) :
    (d.flip col row).get c r = (d.get c r ^^ decide (c = col ∧ r = row)) := by
  simp only [Display.get, Display.flip, Vector.getElem?_setIfInBounds]
  by_cases h : row = r
  · subst h
    simp only [if_true, hr, Option.getD_some, BitVec.getLsbD_xor, BitVec.getLsbD_twoPow, and_true, hc,
      decide_true, Bool.true_and]
    simp only [eq_comm]
  · have h' : r ≠ row := fun e => h e.symm
    simp [h, h']

/-- Cell `i` is the cell of column `i mod 64` and row `i div 64` (R29). -/
theorem Display.cell_eq (d : Display) {col row : Nat} (hc : col < 64) : d.cell (64 * row + col) = d.get col row := by
  have h1 : (64 * row + col) % 64 = col := by omega
  have h2 : (64 * row + col) / 64 = row := by omega
  rw [Display.cell, h1, h2]

/-! ## Drawing -/

/-- The sprite bit that pixels `0 .. m-1` of a row byte `b` drawn from column `col` of row `row` put on a cell of the
grid: 0 off the row, off those columns and off the grid (R223). -/
def rowBit (col row m : Nat) (b : Byte) (p q : Nat) : Bool :=
  decide (q = row ∧ col ≤ p ∧ p < col + m ∧ p ≤ 63) && bits8 b (p - col)

/-- Drawing the first `m` pixels of one row: every cell is inverted where its sprite bit is 1 (R225), and the flag is
raised when such a cell was set before (R224). -/
theorem plotBits_spec (col row : Nat) (hr : row < 32) (b : Byte) (c : Canvas) (m : Nat) :
    (∀ p q, ((List.range m).foldl (plotBit col row b) c).disp.get p q = (c.disp.get p q ^^ rowBit col row m b p q)) ∧
    (((List.range m).foldl (plotBit col row b) c).coll = true ↔
      c.coll = true ∨ ∃ k, k < m ∧ col + k ≤ 63 ∧ bits8 b k = true ∧ c.disp.get (col + k) row = true) := by
  induction m with
  | zero =>
    refine ⟨fun p q => ?_, ?_⟩
    · have : ¬ (q = row ∧ col ≤ p ∧ p < col + 0 ∧ p ≤ 63) := by omega
      rw [rowBit, decide_eq_false this, Bool.false_and, Bool.xor_false]
      rfl
    · simp
  | succ m ih =>
    obtain ⟨ihd, ihc⟩ := ih
    rw [List.range_succ, List.foldl_append, List.foldl_cons, List.foldl_nil]
    generalize (List.range m).foldl (plotBit col row b) c = u at ihd ihc ⊢
    by_cases h : col + m ≤ 63 ∧ bits8 b m = true
    · have hp : plotBit col row b u m = plot (col + m) row u := if_pos h
      rw [hp]
      have hcell : u.disp.get (col + m) row = c.disp.get (col + m) row := by
        have : ¬ (row = row ∧ col ≤ col + m ∧ col + m < col + m ∧ col + m ≤ 63) := by omega
        rw [ihd]
        simp [rowBit]
      refine ⟨fun p q => ?_, ?_⟩
      · rw [plot, Display.get_flip _ (by omega) hr, ihd, Bool.xor_assoc]
        congr 1
        by_cases e : p = col + m ∧ q = row
        · obtain ⟨rfl, rfl⟩ := e
          simp [rowBit, h.1, h.2]
        · have e' : (q = row ∧ col ≤ p ∧ p < col + (m + 1) ∧ p ≤ 63) ↔ (q = row ∧ col ≤ p ∧ p < col + m ∧ p ≤ 63) := by
            omega
          simp only [rowBit, e, e', decide_false, Bool.xor_false]
      · rw [plot]
        simp only [Bool.or_eq_true, ihc, hcell]
        constructor
        · rintro ((h1 | ⟨k, hk⟩) | h1)
          · exact .inl h1
          · exact .inr ⟨k, by omega, hk.2⟩
          · exact .inr ⟨m, by omega, h.1, h.2, h1⟩
        · rintro (h1 | ⟨k, hk, h1, h2, h3⟩)
          · exact .inl (.inl h1)
          · by_cases e : k = m
            · exact .inr (e ▸ h3)
            · exact .inl (.inr ⟨k, by omega, h1, h2, h3⟩)
    · have hp : plotBit col row b u m = u := if_neg h
      rw [hp]
      refine ⟨fun p q => ?_, ?_⟩
      · rw [ihd]
        congr 1
        by_cases e : p = col + m
        · subst e
          have hm : ¬ (col + m ≤ 63 ∧ bits8 b m = true) := h
          by_cases h63 : col + m ≤ 63
          · have : bits8 b m = false := by simpa [h63] using hm
            simp [rowBit, this]
          · simp [rowBit, h63]
        · have e' : (q = row ∧ col ≤ p ∧ p < col + (m + 1) ∧ p ≤ 63) ↔ (q = row ∧ col ≤ p ∧ p < col + m ∧ p ≤ 63) := by
            omega
          simp only [rowBit, e']
      · rw [ihc]
        constructor
        · rintro (h1 | ⟨k, hk⟩)
          · exact .inl h1
          · exact .inr ⟨k, by omega, hk.2⟩
        · rintro (h1 | ⟨k, hk, h1, h2, h3⟩)
          · exact .inl h1
          · have : k ≠ m := fun e => h (e ▸ ⟨h1, h2⟩)
            exact .inr ⟨k, by omega, h1, h2, h3⟩

/-- The sprite bit that the row bytes `bs` drawn from column `col` of row `row` down put on a cell of the grid. -/
def spriteBitAt (col row : Nat) (bs : List Byte) (p q : Nat) : Bool :=
  decide (row ≤ q ∧ q < row + bs.length ∧ q ≤ 31 ∧ col ≤ p ∧ p < col + 8 ∧ p ≤ 63) &&
    bits8 (bs.getD (q - row) 0#8) (p - col)

/-- Drawing a sprite (R221): every cell is inverted where its sprite bit is 1 (R225). -/
theorem drawRows_get (col row : Nat) (bs : List Byte) (c : Canvas) (p q : Nat) :
    (drawRows col row bs c).disp.get p q = (c.disp.get p q ^^ spriteBitAt col row bs p q) := by
  induction bs generalizing row c with
  | nil =>
    have : ¬ (row ≤ q ∧ q < row + ([] : List Byte).length ∧ q ≤ 31 ∧ col ≤ p ∧ p < col + 8 ∧ p ≤ 63) := by
      simp only [List.length_nil]; omega
    simp only [drawRows, spriteBitAt, decide_eq_false this, Bool.false_and, Bool.xor_false]
  | cons b bs ih =>
    have hrow : (drawRow col row b c).disp.get p q = (c.disp.get p q ^^ (decide (row ≤ 31) && rowBit col row 8 b p q)) := by
      unfold drawRow
      split
      · rename_i h
        rw [(plotBits_spec col row (by omega) b c 8).1 p q]
        simp [h]
      · rename_i h
        simp [h]
    rw [drawRows, ih, hrow, Bool.xor_assoc]
    congr 1
    simp only [spriteBitAt, rowBit, List.length_cons]
    by_cases e : q = row
    · subst e
      have h1 : ¬ (q + 1 ≤ q ∧ q < q + 1 + bs.length ∧ q ≤ 31 ∧ col ≤ p ∧ p < col + 8 ∧ p ≤ 63) := by omega
      have h2 : (q ≤ q ∧ q < q + (bs.length + 1) ∧ q ≤ 31 ∧ col ≤ p ∧ p < col + 8 ∧ p ≤ 63) ↔
          (q ≤ 31 ∧ (q = q ∧ col ≤ p ∧ p < col + 8 ∧ p ≤ 63)) := by omega
      simp only [h1, h2, decide_false, Bool.false_and, Bool.xor_false, Nat.sub_self, List.getD_cons_zero,
        Bool.decide_and, Bool.and_assoc]
    · have h1 : ¬ (q = row ∧ col ≤ p ∧ p < col + 8 ∧ p ≤ 63) := fun h => e h.1
      simp only [h1, decide_false, Bool.false_and, Bool.and_false, Bool.false_xor]
      by_cases h2 : row + 1 ≤ q
      · have h3 : q - row = (q - (row + 1)) + 1 := by omega
        have h4 : (row ≤ q ∧ q < row + (bs.length + 1) ∧ q ≤ 31 ∧ col ≤ p ∧ p < col + 8 ∧ p ≤ 63) ↔
            (row + 1 ≤ q ∧ q < row + 1 + bs.length ∧ q ≤ 31 ∧ col ≤ p ∧ p < col + 8 ∧ p ≤ 63) := by omega
        simp only [h3, h4, List.getD_cons_succ]
      · have h3 : ¬ (row + 1 ≤ q ∧ q < row + 1 + bs.length ∧ q ≤ 31 ∧ col ≤ p ∧ p < col + 8 ∧ p ≤ 63) := by omega
        have h4 : ¬ (row ≤ q ∧ q < row + (bs.length + 1) ∧ q ≤ 31 ∧ col ≤ p ∧ p < col + 8 ∧ p ≤ 63) := by omega
        simp only [h3, h4, decide_false, Bool.false_and]

/-- Drawing a sprite (R224): the flag is raised exactly when a pixel of bit 1 on the grid lies over a cell that was set. -/
theorem drawRows_coll (col row : Nat) (bs : List Byte) (c : Canvas) :
    (drawRows col row bs c).coll = true ↔ c.coll = true ∨ ∃ r k, r < bs.length ∧ k < 8 ∧ col + k ≤ 63 ∧ row + r ≤ 31 ∧
      bits8 (bs.getD r 0#8) k = true ∧ c.disp.get (col + k) (row + r) = true := by
  induction bs generalizing row c with
  | nil => simp [drawRows]
  | cons b bs ih =>
    rw [drawRows, ih]
    have hcell : ∀ p q, row + 1 ≤ q → (drawRow col row b c).disp.get p q = c.disp.get p q := by
      intro p q hq
      have := drawRows_get col row [b] c p q
      rw [drawRows, drawRows] at this
      rw [this, spriteBitAt]
      have h : ¬ (row ≤ q ∧ q < row + [b].length ∧ q ≤ 31 ∧ col ≤ p ∧ p < col + 8 ∧ p ≤ 63) := by
        simp only [List.length_cons, List.length_nil]; omega
      simp only [h, decide_false, Bool.false_and, Bool.xor_false]
    have hcoll : (drawRow col row b c).coll = true ↔ c.coll = true ∨
        ∃ k, k < 8 ∧ col + k ≤ 63 ∧ row ≤ 31 ∧ bits8 b k = true ∧ c.disp.get (col + k) row = true := by
      unfold drawRow
      split
      · rename_i h
        rw [(plotBits_spec col row (by omega) b c 8).2]
        simp only [h, true_and]
      · rename_i h
        simp only [h, false_and, and_false, exists_false, or_false]
    rw [hcoll]
    constructor
    · rintro ((h | ⟨k, h1, h2, h3, h4, h5⟩) | ⟨r, k, h1, h2, h3, h4, h5, h6⟩)
      · exact .inl h
      · exact .inr ⟨0, k, by simp, h1, h2, h3, by simpa using h4, h5⟩
      · refine .inr ⟨r + 1, k, by simpa using h1, h2, h3, by omega, by simpa using h5, ?_⟩
        rw [hcell _ _ (by omega)] at h6
        rwa [show row + (r + 1) = row + 1 + r by omega]
    · rintro (h | ⟨r, k, h1, h2, h3, h4, h5, h6⟩)
      · exact .inl (.inl h)
      · cases r with
        | zero => exact .inl (.inr ⟨k, h2, h3, h4, by simpa using h5, h6⟩)
        | succ r =>
          refine .inr ⟨r, k, by simpa using h1, h2, h3, by omega, by simpa using h5, ?_⟩
          rw [hcell _ _ (by omega)]
          rwa [show row + 1 + r = row + (r + 1) by omega]

/-- Displays that read alike cell by cell are equal. -/
theorem Display.ext_get {d e : Display} (h : ∀ col row, col < 64 → row < 32 → d.get col row = e.get col row) : d = e := by
  apply Vector.ext
  intro row hr
  apply BitVec.eq_of_getLsbD_eq
  intro col hc
  have := h col row hc hr
  simpa [Display.get, hr] using this

end Sys2Proof.Machine
end

