-- ==== Sys2Proof/Laws/State.lean ====
section
/-! SUPPORT. One lemma per field per update of the state, each true by rfl, so that no proof unfolds a record update. -/

namespace Sys2Proof.Machine

variable (s : State)

/-! ### setV -/

@[simp] theorem State.setV_v (r : Nibble) (b : Byte) : (s.setV r b).v = s.v.set r.toNat b r.isLt := rfl
@[simp] theorem State.setV_i (r : Nibble) (b : Byte) : (s.setV r b).i = s.i := rfl
@[simp] theorem State.setV_pc (r : Nibble) (b : Byte) : (s.setV r b).pc = s.pc := rfl
@[simp] theorem State.setV_stack (r : Nibble) (b : Byte) : (s.setV r b).stack = s.stack := rfl
@[simp] theorem State.setV_dt (r : Nibble) (b : Byte) : (s.setV r b).dt = s.dt := rfl
@[simp] theorem State.setV_st (r : Nibble) (b : Byte) : (s.setV r b).st = s.st := rfl
@[simp] theorem State.setV_disp (r : Nibble) (b : Byte) : (s.setV r b).disp = s.disp := rfl
@[simp] theorem State.setV_key (r : Nibble) (b : Byte) : (s.setV r b).key = s.key := rfl
@[simp] theorem State.setV_keyLatch (r : Nibble) (b : Byte) : (s.setV r b).keyLatch = s.keyLatch := rfl
@[simp] theorem State.setV_lastInstr (r : Nibble) (b : Byte) : (s.setV r b).lastInstr = s.lastInstr := rfl
@[simp] theorem State.setV_waitKey (r : Nibble) (b : Byte) : (s.setV r b).waitKey = s.waitKey := rfl
@[simp] theorem State.setV_cycleCount (r : Nibble) (b : Byte) : (s.setV r b).cycleCount = s.cycleCount := rfl
@[simp] theorem State.setV_status (r : Nibble) (b : Byte) : (s.setV r b).status = s.status := rfl
@[simp] theorem State.setV_mem (r : Nibble) (b : Byte) : (s.setV r b).mem = s.mem := rfl
@[simp] theorem State.setV_cyclesPerTick (r : Nibble) (b : Byte) : (s.setV r b).cyclesPerTick = s.cyclesPerTick := rfl
@[simp] theorem State.setV_input (r : Nibble) (b : Byte) : (s.setV r b).input = s.input := rfl
@[simp] theorem State.setV_displayOut (r : Nibble) (b : Byte) : (s.setV r b).displayOut = s.displayOut := rfl
@[simp] theorem State.setV_randDraws (r : Nibble) (b : Byte) : (s.setV r b).randDraws = s.randDraws := rfl
@[simp] theorem State.setV_getKey (r : Nibble) (b : Byte) (q : Nibble) : (s.setV r b).getKey q = s.getKey q := rfl

/-! ### setI -/

@[simp] theorem State.setI_v (w : Word) : (s.setI w).v = s.v := rfl
@[simp] theorem State.setI_i (w : Word) : (s.setI w).i = w := rfl
@[simp] theorem State.setI_pc (w : Word) : (s.setI w).pc = s.pc := rfl
@[simp] theorem State.setI_stack (w : Word) : (s.setI w).stack = s.stack := rfl
@[simp] theorem State.setI_dt (w : Word) : (s.setI w).dt = s.dt := rfl
@[simp] theorem State.setI_st (w : Word) : (s.setI w).st = s.st := rfl
@[simp] theorem State.setI_disp (w : Word) : (s.setI w).disp = s.disp := rfl
@[simp] theorem State.setI_key (w : Word) : (s.setI w).key = s.key := rfl
@[simp] theorem State.setI_keyLatch (w : Word) : (s.setI w).keyLatch = s.keyLatch := rfl
@[simp] theorem State.setI_lastInstr (w : Word) : (s.setI w).lastInstr = s.lastInstr := rfl
@[simp] theorem State.setI_waitKey (w : Word) : (s.setI w).waitKey = s.waitKey := rfl
@[simp] theorem State.setI_cycleCount (w : Word) : (s.setI w).cycleCount = s.cycleCount := rfl
@[simp] theorem State.setI_status (w : Word) : (s.setI w).status = s.status := rfl
@[simp] theorem State.setI_mem (w : Word) : (s.setI w).mem = s.mem := rfl
@[simp] theorem State.setI_cyclesPerTick (w : Word) : (s.setI w).cyclesPerTick = s.cyclesPerTick := rfl
@[simp] theorem State.setI_input (w : Word) : (s.setI w).input = s.input := rfl
@[simp] theorem State.setI_displayOut (w : Word) : (s.setI w).displayOut = s.displayOut := rfl
@[simp] theorem State.setI_randDraws (w : Word) : (s.setI w).randDraws = s.randDraws := rfl
@[simp] theorem State.setI_getV (w : Word) (q : Nibble) : (s.setI w).getV q = s.getV q := rfl
@[simp] theorem State.setI_getKey (w : Word) (q : Nibble) : (s.setI w).getKey q = s.getKey q := rfl

/-! ### setPc -/

@[simp] theorem State.setPc_v (w : Word) : (s.setPc w).v = s.v := rfl
@[simp] theorem State.setPc_i (w : Word) : (s.setPc w).i = s.i := rfl
@[simp] theorem State.setPc_pc (w : Word) : (s.setPc w).pc = w := rfl
@[simp] theorem State.setPc_stack (w : Word) : (s.setPc w).stack = s.stack := rfl
@[simp] theorem State.setPc_dt (w : Word) : (s.setPc w).dt = s.dt := rfl
@[simp] theorem State.setPc_st (w : Word) : (s.setPc w).st = s.st := rfl
@[simp] theorem State.setPc_disp (w : Word) : (s.setPc w).disp = s.disp := rfl
@[simp] theorem State.setPc_key (w : Word) : (s.setPc w).key = s.key := rfl
@[simp] theorem State.setPc_keyLatch (w : Word) : (s.setPc w).keyLatch = s.keyLatch := rfl
@[simp] theorem State.setPc_lastInstr (w : Word) : (s.setPc w).lastInstr = s.lastInstr := rfl
@[simp] theorem State.setPc_waitKey (w : Word) : (s.setPc w).waitKey = s.waitKey := rfl
@[simp] theorem State.setPc_cycleCount (w : Word) : (s.setPc w).cycleCount = s.cycleCount := rfl
@[simp] theorem State.setPc_status (w : Word) : (s.setPc w).status = s.status := rfl
@[simp] theorem State.setPc_mem (w : Word) : (s.setPc w).mem = s.mem := rfl
@[simp] theorem State.setPc_cyclesPerTick (w : Word) : (s.setPc w).cyclesPerTick = s.cyclesPerTick := rfl
@[simp] theorem State.setPc_input (w : Word) : (s.setPc w).input = s.input := rfl
@[simp] theorem State.setPc_displayOut (w : Word) : (s.setPc w).displayOut = s.displayOut := rfl
@[simp] theorem State.setPc_randDraws (w : Word) : (s.setPc w).randDraws = s.randDraws := rfl
@[simp] theorem State.setPc_getV (w : Word) (q : Nibble) : (s.setPc w).getV q = s.getV q := rfl
@[simp] theorem State.setPc_getKey (w : Word) (q : Nibble) : (s.setPc w).getKey q = s.getKey q := rfl

/-! ### setStack -/

@[simp] theorem State.setStack_v (l : List Word) : (s.setStack l).v = s.v := rfl
@[simp] theorem State.setStack_i (l : List Word) : (s.setStack l).i = s.i := rfl
@[simp] theorem State.setStack_pc (l : List Word) : (s.setStack l).pc = s.pc := rfl
@[simp] theorem State.setStack_stack (l : List Word) : (s.setStack l).stack = l := rfl
@[simp] theorem State.setStack_dt (l : List Word) : (s.setStack l).dt = s.dt := rfl
@[simp] theorem State.setStack_st (l : List Word) : (s.setStack l).st = s.st := rfl
@[simp] theorem State.setStack_disp (l : List Word) : (s.setStack l).disp = s.disp := rfl
@[simp] theorem State.setStack_key (l : List Word) : (s.setStack l).key = s.key := rfl
@[simp] theorem State.setStack_keyLatch (l : List Word) : (s.setStack l).keyLatch = s.keyLatch := rfl
@[simp] theorem State.setStack_lastInstr (l : List Word) : (s.setStack l).lastInstr = s.lastInstr := rfl
@[simp] theorem State.setStack_waitKey (l : List Word) : (s.setStack l).waitKey = s.waitKey := rfl
@[simp] theorem State.setStack_cycleCount (l : List Word) : (s.setStack l).cycleCount = s.cycleCount := rfl
@[simp] theorem State.setStack_status (l : List Word) : (s.setStack l).status = s.status := rfl
@[simp] theorem State.setStack_mem (l : List Word) : (s.setStack l).mem = s.mem := rfl
@[simp] theorem State.setStack_cyclesPerTick (l : List Word) : (s.setStack l).cyclesPerTick = s.cyclesPerTick := rfl
@[simp] theorem State.setStack_input (l : List Word) : (s.setStack l).input = s.input := rfl
@[simp] theorem State.setStack_displayOut (l : List Word) : (s.setStack l).displayOut = s.displayOut := rfl
@[simp] theorem State.setStack_randDraws (l : List Word) : (s.setStack l).randDraws = s.randDraws := rfl
@[simp] theorem State.setStack_getV (l : List Word) (q : Nibble) : (s.setStack l).getV q = s.getV q := rfl
@[simp] theorem State.setStack_getKey (l : List Word) (q : Nibble) : (s.setStack l).getKey q = s.getKey q := rfl

/-! ### setDT -/

@[simp] theorem State.setDT_v (b : Byte) : (s.setDT b).v = s.v := rfl
@[simp] theorem State.setDT_i (b : Byte) : (s.setDT b).i = s.i := rfl
@[simp] theorem State.setDT_pc (b : Byte) : (s.setDT b).pc = s.pc := rfl
@[simp] theorem State.setDT_stack (b : Byte) : (s.setDT b).stack = s.stack := rfl
@[simp] theorem State.setDT_dt (b : Byte) : (s.setDT b).dt = b := rfl
@[simp] theorem State.setDT_st (b : Byte) : (s.setDT b).st = s.st := rfl
@[simp] theorem State.setDT_disp (b : Byte) : (s.setDT b).disp = s.disp := rfl
@[simp] theorem State.setDT_key (b : Byte) : (s.setDT b).key = s.key := rfl
@[simp] theorem State.setDT_keyLatch (b : Byte) : (s.setDT b).keyLatch = s.keyLatch := rfl
@[simp] theorem State.setDT_lastInstr (b : Byte) : (s.setDT b).lastInstr = s.lastInstr := rfl
@[simp] theorem State.setDT_waitKey (b : Byte) : (s.setDT b).waitKey = s.waitKey := rfl
@[simp] theorem State.setDT_cycleCount (b : Byte) : (s.setDT b).cycleCount = s.cycleCount := rfl
@[simp] theorem State.setDT_status (b : Byte) : (s.setDT b).status = s.status := rfl
@[simp] theorem State.setDT_mem (b : Byte) : (s.setDT b).mem = s.mem := rfl
@[simp] theorem State.setDT_cyclesPerTick (b : Byte) : (s.setDT b).cyclesPerTick = s.cyclesPerTick := rfl
@[simp] theorem State.setDT_input (b : Byte) : (s.setDT b).input = s.input := rfl
@[simp] theorem State.setDT_displayOut (b : Byte) : (s.setDT b).displayOut = s.displayOut := rfl
@[simp] theorem State.setDT_randDraws (b : Byte) : (s.setDT b).randDraws = s.randDraws := rfl
@[simp] theorem State.setDT_getV (b : Byte) (q : Nibble) : (s.setDT b).getV q = s.getV q := rfl
@[simp] theorem State.setDT_getKey (b : Byte) (q : Nibble) : (s.setDT b).getKey q = s.getKey q := rfl

/-! ### setST -/

@[simp] theorem State.setST_v (b : Byte) : (s.setST b).v = s.v := rfl
@[simp] theorem State.setST_i (b : Byte) : (s.setST b).i = s.i := rfl
@[simp] theorem State.setST_pc (b : Byte) : (s.setST b).pc = s.pc := rfl
@[simp] theorem State.setST_stack (b : Byte) : (s.setST b).stack = s.stack := rfl
@[simp] theorem State.setST_dt (b : Byte) : (s.setST b).dt = s.dt := rfl
@[simp] theorem State.setST_st (b : Byte) : (s.setST b).st = b := rfl
@[simp] theorem State.setST_disp (b : Byte) : (s.setST b).disp = s.disp := rfl
@[simp] theorem State.setST_key (b : Byte) : (s.setST b).key = s.key := rfl
@[simp] theorem State.setST_keyLatch (b : Byte) : (s.setST b).keyLatch = s.keyLatch := rfl
@[simp] theorem State.setST_lastInstr (b : Byte) : (s.setST b).lastInstr = s.lastInstr := rfl
@[simp] theorem State.setST_waitKey (b : Byte) : (s.setST b).waitKey = s.waitKey := rfl
@[simp] theorem State.setST_cycleCount (b : Byte) : (s.setST b).cycleCount = s.cycleCount := rfl
@[simp] theorem State.setST_status (b : Byte) : (s.setST b).status = s.status := rfl
@[simp] theorem State.setST_mem (b : Byte) : (s.setST b).mem = s.mem := rfl
@[simp] theorem State.setST_cyclesPerTick (b : Byte) : (s.setST b).cyclesPerTick = s.cyclesPerTick := rfl
@[simp] theorem State.setST_input (b : Byte) : (s.setST b).input = s.input := rfl
@[simp] theorem State.setST_displayOut (b : Byte) : (s.setST b).displayOut = s.displayOut := rfl
@[simp] theorem State.setST_randDraws (b : Byte) : (s.setST b).randDraws = s.randDraws := rfl
@[simp] theorem State.setST_getV (b : Byte) (q : Nibble) : (s.setST b).getV q = s.getV q := rfl
@[simp] theorem State.setST_getKey (b : Byte) (q : Nibble) : (s.setST b).getKey q = s.getKey q := rfl

/-! ### setDisp -/

@[simp] theorem State.setDisp_v (d : Display) : (s.setDisp d).v = s.v := rfl
@[simp] theorem State.setDisp_i (d : Display) : (s.setDisp d).i = s.i := rfl
@[simp] theorem State.setDisp_pc (d : Display) : (s.setDisp d).pc = s.pc := rfl
@[simp] theorem State.setDisp_stack (d : Display) : (s.setDisp d).stack = s.stack := rfl
@[simp] theorem State.setDisp_dt (d : Display) : (s.setDisp d).dt = s.dt := rfl
@[simp] theorem State.setDisp_st (d : Display) : (s.setDisp d).st = s.st := rfl
@[simp] theorem State.setDisp_disp (d : Display) : (s.setDisp d).disp = d := rfl
@[simp] theorem State.setDisp_key (d : Display) : (s.setDisp d).key = s.key := rfl
@[simp] theorem State.setDisp_keyLatch (d : Display) : (s.setDisp d).keyLatch = s.keyLatch := rfl
@[simp] theorem State.setDisp_lastInstr (d : Display) : (s.setDisp d).lastInstr = s.lastInstr := rfl
@[simp] theorem State.setDisp_waitKey (d : Display) : (s.setDisp d).waitKey = s.waitKey := rfl
@[simp] theorem State.setDisp_cycleCount (d : Display) : (s.setDisp d).cycleCount = s.cycleCount := rfl
@[simp] theorem State.setDisp_status (d : Display) : (s.setDisp d).status = s.status := rfl
@[simp] theorem State.setDisp_mem (d : Display) : (s.setDisp d).mem = s.mem := rfl
@[simp] theorem State.setDisp_cyclesPerTick (d : Display) : (s.setDisp d).cyclesPerTick = s.cyclesPerTick := rfl
@[simp] theorem State.setDisp_input (d : Display) : (s.setDisp d).input = s.input := rfl
@[simp] theorem State.setDisp_displayOut (d : Display) : (s.setDisp d).displayOut = s.displayOut := rfl
@[simp] theorem State.setDisp_randDraws (d : Display) : (s.setDisp d).randDraws = s.randDraws := rfl
@[simp] theorem State.setDisp_getV (d : Display) (q : Nibble) : (s.setDisp d).getV q = s.getV q := rfl
@[simp] theorem State.setDisp_getKey (d : Display) (q : Nibble) : (s.setDisp d).getKey q = s.getKey q := rfl

/-! ### setMem -/

@[simp] theorem State.setMem_v (m : Memory) : (s.setMem m).v = s.v := rfl
@[simp] theorem State.setMem_i (m : Memory) : (s.setMem m).i = s.i := rfl
@[simp] theorem State.setMem_pc (m : Memory) : (s.setMem m).pc = s.pc := rfl
@[simp] theorem State.setMem_stack (m : Memory) : (s.setMem m).stack = s.stack := rfl
@[simp] theorem State.setMem_dt (m : Memory) : (s.setMem m).dt = s.dt := rfl
@[simp] theorem State.setMem_st (m : Memory) : (s.setMem m).st = s.st := rfl
@[simp] theorem State.setMem_disp (m : Memory) : (s.setMem m).disp = s.disp := rfl
@[simp] theorem State.setMem_key (m : Memory) : (s.setMem m).key = s.key := rfl
@[simp] theorem State.setMem_keyLatch (m : Memory) : (s.setMem m).keyLatch = s.keyLatch := rfl
@[simp] theorem State.setMem_lastInstr (m : Memory) : (s.setMem m).lastInstr = s.lastInstr := rfl
@[simp] theorem State.setMem_waitKey (m : Memory) : (s.setMem m).waitKey = s.waitKey := rfl
@[simp] theorem State.setMem_cycleCount (m : Memory) : (s.setMem m).cycleCount = s.cycleCount := rfl
@[simp] theorem State.setMem_status (m : Memory) : (s.setMem m).status = s.status := rfl
@[simp] theorem State.setMem_mem (m : Memory) : (s.setMem m).mem = m := rfl
@[simp] theorem State.setMem_cyclesPerTick (m : Memory) : (s.setMem m).cyclesPerTick = s.cyclesPerTick := rfl
@[simp] theorem State.setMem_input (m : Memory) : (s.setMem m).input = s.input := rfl
@[simp] theorem State.setMem_displayOut (m : Memory) : (s.setMem m).displayOut = s.displayOut := rfl
@[simp] theorem State.setMem_randDraws (m : Memory) : (s.setMem m).randDraws = s.randDraws := rfl
@[simp] theorem State.setMem_getV (m : Memory) (q : Nibble) : (s.setMem m).getV q = s.getV q := rfl
@[simp] theorem State.setMem_getKey (m : Memory) (q : Nibble) : (s.setMem m).getKey q = s.getKey q := rfl

/-! ### setKeyLatch -/

@[simp] theorem State.setKeyLatch_v (k : Option Nibble) : (s.setKeyLatch k).v = s.v := rfl
@[simp] theorem State.setKeyLatch_i (k : Option Nibble) : (s.setKeyLatch k).i = s.i := rfl
@[simp] theorem State.setKeyLatch_pc (k : Option Nibble) : (s.setKeyLatch k).pc = s.pc := rfl
@[simp] theorem State.setKeyLatch_stack (k : Option Nibble) : (s.setKeyLatch k).stack = s.stack := rfl
@[simp] theorem State.setKeyLatch_dt (k : Option Nibble) : (s.setKeyLatch k).dt = s.dt := rfl
@[simp] theorem State.setKeyLatch_st (k : Option Nibble) : (s.setKeyLatch k).st = s.st := rfl
@[simp] theorem State.setKeyLatch_disp (k : Option Nibble) : (s.setKeyLatch k).disp = s.disp := rfl
@[simp] theorem State.setKeyLatch_key (k : Option Nibble) : (s.setKeyLatch k).key = s.key := rfl
@[simp] theorem State.setKeyLatch_keyLatch (k : Option Nibble) : (s.setKeyLatch k).keyLatch = k := rfl
@[simp] theorem State.setKeyLatch_lastInstr (k : Option Nibble) : (s.setKeyLatch k).lastInstr = s.lastInstr := rfl
@[simp] theorem State.setKeyLatch_waitKey (k : Option Nibble) : (s.setKeyLatch k).waitKey = s.waitKey := rfl
@[simp] theorem State.setKeyLatch_cycleCount (k : Option Nibble) : (s.setKeyLatch k).cycleCount = s.cycleCount := rfl
@[simp] theorem State.setKeyLatch_status (k : Option Nibble) : (s.setKeyLatch k).status = s.status := rfl
@[simp] theorem State.setKeyLatch_mem (k : Option Nibble) : (s.setKeyLatch k).mem = s.mem := rfl
@[simp] theorem State.setKeyLatch_cyclesPerTick (k : Option Nibble) : (s.setKeyLatch k).cyclesPerTick = s.cyclesPerTick := rfl
@[simp] theorem State.setKeyLatch_input (k : Option Nibble) : (s.setKeyLatch k).input = s.input := rfl
@[simp] theorem State.setKeyLatch_displayOut (k : Option Nibble) : (s.setKeyLatch k).displayOut = s.displayOut := rfl
@[simp] theorem State.setKeyLatch_randDraws (k : Option Nibble) : (s.setKeyLatch k).randDraws = s.randDraws := rfl
@[simp] theorem State.setKeyLatch_getV (k : Option Nibble) (q : Nibble) : (s.setKeyLatch k).getV q = s.getV q := rfl
@[simp] theorem State.setKeyLatch_getKey (k : Option Nibble) (q : Nibble) : (s.setKeyLatch k).getKey q = s.getKey q := rfl

/-! ### setWaitKey -/

@[simp] theorem State.setWaitKey_v (k : Option Nibble) : (s.setWaitKey k).v = s.v := rfl
@[simp] theorem State.setWaitKey_i (k : Option Nibble) : (s.setWaitKey k).i = s.i := rfl
@[simp] theorem State.setWaitKey_pc (k : Option Nibble) : (s.setWaitKey k).pc = s.pc := rfl
@[simp] theorem State.setWaitKey_stack (k : Option Nibble) : (s.setWaitKey k).stack = s.stack := rfl
@[simp] theorem State.setWaitKey_dt (k : Option Nibble) : (s.setWaitKey k).dt = s.dt := rfl
@[simp] theorem State.setWaitKey_st (k : Option Nibble) : (s.setWaitKey k).st = s.st := rfl
@[simp] theorem State.setWaitKey_disp (k : Option Nibble) : (s.setWaitKey k).disp = s.disp := rfl
@[simp] theorem State.setWaitKey_key (k : Option Nibble) : (s.setWaitKey k).key = s.key := rfl
@[simp] theorem State.setWaitKey_keyLatch (k : Option Nibble) : (s.setWaitKey k).keyLatch = s.keyLatch := rfl
@[simp] theorem State.setWaitKey_lastInstr (k : Option Nibble) : (s.setWaitKey k).lastInstr = s.lastInstr := rfl
@[simp] theorem State.setWaitKey_waitKey (k : Option Nibble) : (s.setWaitKey k).waitKey = k := rfl
@[simp] theorem State.setWaitKey_cycleCount (k : Option Nibble) : (s.setWaitKey k).cycleCount = s.cycleCount := rfl
@[simp] theorem State.setWaitKey_status (k : Option Nibble) : (s.setWaitKey k).status = s.status := rfl
@[simp] theorem State.setWaitKey_mem (k : Option Nibble) : (s.setWaitKey k).mem = s.mem := rfl
@[simp] theorem State.setWaitKey_cyclesPerTick (k : Option Nibble) : (s.setWaitKey k).cyclesPerTick = s.cyclesPerTick := rfl
@[simp] theorem State.setWaitKey_input (k : Option Nibble) : (s.setWaitKey k).input = s.input := rfl
@[simp] theorem State.setWaitKey_displayOut (k : Option Nibble) : (s.setWaitKey k).displayOut = s.displayOut := rfl
@[simp] theorem State.setWaitKey_randDraws (k : Option Nibble) : (s.setWaitKey k).randDraws = s.randDraws := rfl
@[simp] theorem State.setWaitKey_getV (k : Option Nibble) (q : Nibble) : (s.setWaitKey k).getV q = s.getV q := rfl
@[simp] theorem State.setWaitKey_getKey (k : Option Nibble) (q : Nibble) : (s.setWaitKey k).getKey q = s.getKey q := rfl

/-! ### setLastInstr -/

@[simp] theorem State.setLastInstr_v (y : Option Symbol) : (s.setLastInstr y).v = s.v := rfl
@[simp] theorem State.setLastInstr_i (y : Option Symbol) : (s.setLastInstr y).i = s.i := rfl
@[simp] theorem State.setLastInstr_pc (y : Option Symbol) : (s.setLastInstr y).pc = s.pc := rfl
@[simp] theorem State.setLastInstr_stack (y : Option Symbol) : (s.setLastInstr y).stack = s.stack := rfl
@[simp] theorem State.setLastInstr_dt (y : Option Symbol) : (s.setLastInstr y).dt = s.dt := rfl
@[simp] theorem State.setLastInstr_st (y : Option Symbol) : (s.setLastInstr y).st = s.st := rfl
@[simp] theorem State.setLastInstr_disp (y : Option Symbol) : (s.setLastInstr y).disp = s.disp := rfl
@[simp] theorem State.setLastInstr_key (y : Option Symbol) : (s.setLastInstr y).key = s.key := rfl
@[simp] theorem State.setLastInstr_keyLatch (y : Option Symbol) : (s.setLastInstr y).keyLatch = s.keyLatch := rfl
@[simp] theorem State.setLastInstr_lastInstr (y : Option Symbol) : (s.setLastInstr y).lastInstr = y := rfl
@[simp] theorem State.setLastInstr_waitKey (y : Option Symbol) : (s.setLastInstr y).waitKey = s.waitKey := rfl
@[simp] theorem State.setLastInstr_cycleCount (y : Option Symbol) : (s.setLastInstr y).cycleCount = s.cycleCount := rfl
@[simp] theorem State.setLastInstr_status (y : Option Symbol) : (s.setLastInstr y).status = s.status := rfl
@[simp] theorem State.setLastInstr_mem (y : Option Symbol) : (s.setLastInstr y).mem = s.mem := rfl
@[simp] theorem State.setLastInstr_cyclesPerTick (y : Option Symbol) : (s.setLastInstr y).cyclesPerTick = s.cyclesPerTick := rfl
@[simp] theorem State.setLastInstr_input (y : Option Symbol) : (s.setLastInstr y).input = s.input := rfl
@[simp] theorem State.setLastInstr_displayOut (y : Option Symbol) : (s.setLastInstr y).displayOut = s.displayOut := rfl
@[simp] theorem State.setLastInstr_randDraws (y : Option Symbol) : (s.setLastInstr y).randDraws = s.randDraws := rfl
@[simp] theorem State.setLastInstr_getV (y : Option Symbol) (q : Nibble) : (s.setLastInstr y).getV q = s.getV q := rfl
@[simp] theorem State.setLastInstr_getKey (y : Option Symbol) (q : Nibble) : (s.setLastInstr y).getKey q = s.getKey q := rfl

/-! ### setStatus -/

@[simp] theorem State.setStatus_v (x : Status) : (s.setStatus x).v = s.v := rfl
@[simp] theorem State.setStatus_i (x : Status) : (s.setStatus x).i = s.i := rfl
@[simp] theorem State.setStatus_pc (x : Status) : (s.setStatus x).pc = s.pc := rfl
@[simp] theorem State.setStatus_stack (x : Status) : (s.setStatus x).stack = s.stack := rfl
@[simp] theorem State.setStatus_dt (x : Status) : (s.setStatus x).dt = s.dt := rfl
@[simp] theorem State.setStatus_st (x : Status) : (s.setStatus x).st = s.st := rfl
@[simp] theorem State.setStatus_disp (x : Status) : (s.setStatus x).disp = s.disp := rfl
@[simp] theorem State.setStatus_key (x : Status) : (s.setStatus x).key = s.key := rfl
@[simp] theorem State.setStatus_keyLatch (x : Status) : (s.setStatus x).keyLatch = s.keyLatch := rfl
@[simp] theorem State.setStatus_lastInstr (x : Status) : (s.setStatus x).lastInstr = s.lastInstr := rfl
@[simp] theorem State.setStatus_waitKey (x : Status) : (s.setStatus x).waitKey = s.waitKey := rfl
@[simp] theorem State.setStatus_cycleCount (x : Status) : (s.setStatus x).cycleCount = s.cycleCount := rfl
@[simp] theorem State.setStatus_status (x : Status) : (s.setStatus x).status = x := rfl
@[simp] theorem State.setStatus_mem (x : Status) : (s.setStatus x).mem = s.mem := rfl
@[simp] theorem State.setStatus_cyclesPerTick (x : Status) : (s.setStatus x).cyclesPerTick = s.cyclesPerTick := rfl
@[simp] theorem State.setStatus_input (x : Status) : (s.setStatus x).input = s.input := rfl
@[simp] theorem State.setStatus_displayOut (x : Status) : (s.setStatus x).displayOut = s.displayOut := rfl
@[simp] theorem State.setStatus_randDraws (x : Status) : (s.setStatus x).randDraws = s.randDraws := rfl
@[simp] theorem State.setStatus_getV (x : Status) (q : Nibble) : (s.setStatus x).getV q = s.getV q := rfl
@[simp] theorem State.setStatus_getKey (x : Status) (q : Nibble) : (s.setStatus x).getKey q = s.getKey q := rfl

/-! ### setKey -/

@[simp] theorem State.setKey_v (k : Nibble) (b : Bool) : (s.setKey k b).v = s.v := rfl
@[simp] theorem State.setKey_i (k : Nibble) (b : Bool) : (s.setKey k b).i = s.i := rfl
@[simp] theorem State.setKey_pc (k : Nibble) (b : Bool) : (s.setKey k b).pc = s.pc := rfl
@[simp] theorem State.setKey_stack (k : Nibble) (b : Bool) : (s.setKey k b).stack = s.stack := rfl
@[simp] theorem State.setKey_dt (k : Nibble) (b : Bool) : (s.setKey k b).dt = s.dt := rfl
@[simp] theorem State.setKey_st (k : Nibble) (b : Bool) : (s.setKey k b).st = s.st := rfl
@[simp] theorem State.setKey_disp (k : Nibble) (b : Bool) : (s.setKey k b).disp = s.disp := rfl
@[simp] theorem State.setKey_key (k : Nibble) (b : Bool) : (s.setKey k b).key = s.key.set k.toNat b k.isLt := rfl
@[simp] theorem State.setKey_keyLatch (k : Nibble) (b : Bool) : (s.setKey k b).keyLatch = s.keyLatch := rfl
@[simp] theorem State.setKey_lastInstr (k : Nibble) (b : Bool) : (s.setKey k b).lastInstr = s.lastInstr := rfl
@[simp] theorem State.setKey_waitKey (k : Nibble) (b : Bool) : (s.setKey k b).waitKey = s.waitKey := rfl
@[simp] theorem State.setKey_cycleCount (k : Nibble) (b : Bool) : (s.setKey k b).cycleCount = s.cycleCount := rfl
@[simp] theorem State.setKey_status (k : Nibble) (b : Bool) : (s.setKey k b).status = s.status := rfl
@[simp] theorem State.setKey_mem (k : Nibble) (b : Bool) : (s.setKey k b).mem = s.mem := rfl
@[simp] theorem State.setKey_cyclesPerTick (k : Nibble) (b : Bool) : (s.setKey k b).cyclesPerTick = s.cyclesPerTick := rfl
@[simp] theorem State.setKey_input (k : Nibble) (b : Bool) : (s.setKey k b).input = s.input := rfl
@[simp] theorem State.setKey_displayOut (k : Nibble) (b : Bool) : (s.setKey k b).displayOut = s.displayOut := rfl
@[simp] theorem State.setKey_randDraws (k : Nibble) (b : Bool) : (s.setKey k b).randDraws = s.randDraws := rfl
@[simp] theorem State.setKey_getV (k : Nibble) (b : Bool) (q : Nibble) : (s.setKey k b).getV q = s.getV q := rfl

/-! ### drawn -/

@[simp] theorem State.drawn_v : (s.drawn).v = s.v := rfl
@[simp] theorem State.drawn_i : (s.drawn).i = s.i := rfl
@[simp] theorem State.drawn_pc : (s.drawn).pc = s.pc := rfl
@[simp] theorem State.drawn_stack : (s.drawn).stack = s.stack := rfl
@[simp] theorem State.drawn_dt : (s.drawn).dt = s.dt := rfl
@[simp] theorem State.drawn_st : (s.drawn).st = s.st := rfl
@[simp] theorem State.drawn_disp : (s.drawn).disp = s.disp := rfl
@[simp] theorem State.drawn_key : (s.drawn).key = s.key := rfl
@[simp] theorem State.drawn_keyLatch : (s.drawn).keyLatch = s.keyLatch := rfl
@[simp] theorem State.drawn_lastInstr : (s.drawn).lastInstr = s.lastInstr := rfl
@[simp] theorem State.drawn_waitKey : (s.drawn).waitKey = s.waitKey := rfl
@[simp] theorem State.drawn_cycleCount : (s.drawn).cycleCount = s.cycleCount := rfl
@[simp] theorem State.drawn_status : (s.drawn).status = s.status := rfl
@[simp] theorem State.drawn_mem : (s.drawn).mem = s.mem := rfl
@[simp] theorem State.drawn_cyclesPerTick : (s.drawn).cyclesPerTick = s.cyclesPerTick := rfl
@[simp] theorem State.drawn_input : (s.drawn).input = s.input := rfl
@[simp] theorem State.drawn_displayOut : (s.drawn).displayOut = s.displayOut := rfl
@[simp] theorem State.drawn_randDraws : (s.drawn).randDraws = s.randDraws + 1 := rfl
@[simp] theorem State.drawn_getV (q : Nibble) : (s.drawn).getV q = s.getV q := rfl
@[simp] theorem State.drawn_getKey (q : Nibble) : (s.drawn).getKey q = s.getKey q := rfl

/-! ### popInput -/

@[simp] theorem State.popInput_v : (s.popInput).v = s.v := rfl
@[simp] theorem State.popInput_i : (s.popInput).i = s.i := rfl
@[simp] theorem State.popInput_pc : (s.popInput).pc = s.pc := rfl
@[simp] theorem State.popInput_stack : (s.popInput).stack = s.stack := rfl
@[simp] theorem State.popInput_dt : (s.popInput).dt = s.dt := rfl
@[simp] theorem State.popInput_st : (s.popInput).st = s.st := rfl
@[simp] theorem State.popInput_disp : (s.popInput).disp = s.disp := rfl
@[simp] theorem State.popInput_key : (s.popInput).key = s.key := rfl
@[simp] theorem State.popInput_keyLatch : (s.popInput).keyLatch = s.keyLatch := rfl
@[simp] theorem State.popInput_lastInstr : (s.popInput).lastInstr = s.lastInstr := rfl
@[simp] theorem State.popInput_waitKey : (s.popInput).waitKey = s.waitKey := rfl
@[simp] theorem State.popInput_cycleCount : (s.popInput).cycleCount = s.cycleCount := rfl
@[simp] theorem State.popInput_status : (s.popInput).status = s.status := rfl
@[simp] theorem State.popInput_mem : (s.popInput).mem = s.mem := rfl
@[simp] theorem State.popInput_cyclesPerTick : (s.popInput).cyclesPerTick = s.cyclesPerTick := rfl
@[simp] theorem State.popInput_input : (s.popInput).input = s.input.tail := rfl
@[simp] theorem State.popInput_displayOut : (s.popInput).displayOut = s.displayOut := rfl
@[simp] theorem State.popInput_randDraws : (s.popInput).randDraws = s.randDraws := rfl
@[simp] theorem State.popInput_getV (q : Nibble) : (s.popInput).getV q = s.getV q := rfl
@[simp] theorem State.popInput_getKey (q : Nibble) : (s.popInput).getKey q = s.getKey q := rfl

/-! ### advance -/

@[simp] theorem State.advance_v : (s.advance).v = s.v := rfl
@[simp] theorem State.advance_i : (s.advance).i = s.i := rfl
@[simp] theorem State.advance_pc : (s.advance).pc = s.pc + 2#16 := rfl
@[simp] theorem State.advance_stack : (s.advance).stack = s.stack := rfl
@[simp] theorem State.advance_dt : (s.advance).dt = s.dt := rfl
@[simp] theorem State.advance_st : (s.advance).st = s.st := rfl
@[simp] theorem State.advance_disp : (s.advance).disp = s.disp := rfl
@[simp] theorem State.advance_key : (s.advance).key = s.key := rfl
@[simp] theorem State.advance_keyLatch : (s.advance).keyLatch = s.keyLatch := rfl
@[simp] theorem State.advance_lastInstr : (s.advance).lastInstr = s.lastInstr := rfl
@[simp] theorem State.advance_waitKey : (s.advance).waitKey = s.waitKey := rfl
@[simp] theorem State.advance_cycleCount : (s.advance).cycleCount = s.cycleCount := rfl
@[simp] theorem State.advance_status : (s.advance).status = s.status := rfl
@[simp] theorem State.advance_mem : (s.advance).mem = s.mem := rfl
@[simp] theorem State.advance_cyclesPerTick : (s.advance).cyclesPerTick = s.cyclesPerTick := rfl
@[simp] theorem State.advance_input : (s.advance).input = s.input := rfl
@[simp] theorem State.advance_displayOut : (s.advance).displayOut = s.displayOut := rfl
@[simp] theorem State.advance_randDraws : (s.advance).randDraws = s.randDraws := rfl
@[simp] theorem State.advance_getV (q : Nibble) : (s.advance).getV q = s.getV q := rfl
@[simp] theorem State.advance_getKey (q : Nibble) : (s.advance).getKey q = s.getKey q := rfl

/-! ### skipIf -/

@[simp] theorem State.skipIf_v (c : Bool) : (s.skipIf c).v = s.v := rfl
@[simp] theorem State.skipIf_i (c : Bool) : (s.skipIf c).i = s.i := rfl
@[simp] theorem State.skipIf_pc (c : Bool) : (s.skipIf c).pc = if c then s.pc + 4#16 else s.pc + 2#16 := rfl
@[simp] theorem State.skipIf_stack (c : Bool) : (s.skipIf c).stack = s.stack := rfl
@[simp] theorem State.skipIf_dt (c : Bool) : (s.skipIf c).dt = s.dt := rfl
@[simp] theorem State.skipIf_st (c : Bool) : (s.skipIf c).st = s.st := rfl
@[simp] theorem State.skipIf_disp (c : Bool) : (s.skipIf c).disp = s.disp := rfl
@[simp] theorem State.skipIf_key (c : Bool) : (s.skipIf c).key = s.key := rfl
@[simp] theorem State.skipIf_keyLatch (c : Bool) : (s.skipIf c).keyLatch = s.keyLatch := rfl
@[simp] theorem State.skipIf_lastInstr (c : Bool) : (s.skipIf c).lastInstr = s.lastInstr := rfl
@[simp] theorem State.skipIf_waitKey (c : Bool) : (s.skipIf c).waitKey = s.waitKey := rfl
@[simp] theorem State.skipIf_cycleCount (c : Bool) : (s.skipIf c).cycleCount = s.cycleCount := rfl
@[simp] theorem State.skipIf_status (c : Bool) : (s.skipIf c).status = s.status := rfl
@[simp] theorem State.skipIf_mem (c : Bool) : (s.skipIf c).mem = s.mem := rfl
@[simp] theorem State.skipIf_cyclesPerTick (c : Bool) : (s.skipIf c).cyclesPerTick = s.cyclesPerTick := rfl
@[simp] theorem State.skipIf_input (c : Bool) : (s.skipIf c).input = s.input := rfl
@[simp] theorem State.skipIf_displayOut (c : Bool) : (s.skipIf c).displayOut = s.displayOut := rfl
@[simp] theorem State.skipIf_randDraws (c : Bool) : (s.skipIf c).randDraws = s.randDraws := rfl
@[simp] theorem State.skipIf_getV (c : Bool) (q : Nibble) : (s.skipIf c).getV q = s.getV q := rfl
@[simp] theorem State.skipIf_getKey (c : Bool) (q : Nibble) : (s.skipIf c).getKey q = s.getKey q := rfl

/-! ### halt -/

@[simp] theorem State.halt_v (c : Cause) (w : Option Word) : (s.halt c w).v = s.v := rfl
@[simp] theorem State.halt_i (c : Cause) (w : Option Word) : (s.halt c w).i = s.i := rfl
@[simp] theorem State.halt_pc (c : Cause) (w : Option Word) : (s.halt c w).pc = s.pc := rfl
@[simp] theorem State.halt_stack (c : Cause) (w : Option Word) : (s.halt c w).stack = s.stack := rfl
@[simp] theorem State.halt_dt (c : Cause) (w : Option Word) : (s.halt c w).dt = s.dt := rfl
@[simp] theorem State.halt_st (c : Cause) (w : Option Word) : (s.halt c w).st = s.st := rfl
@[simp] theorem State.halt_disp (c : Cause) (w : Option Word) : (s.halt c w).disp = s.disp := rfl
@[simp] theorem State.halt_key (c : Cause) (w : Option Word) : (s.halt c w).key = s.key := rfl
@[simp] theorem State.halt_keyLatch (c : Cause) (w : Option Word) : (s.halt c w).keyLatch = s.keyLatch := rfl
@[simp] theorem State.halt_lastInstr (c : Cause) (w : Option Word) : (s.halt c w).lastInstr = s.lastInstr := rfl
@[simp] theorem State.halt_waitKey (c : Cause) (w : Option Word) : (s.halt c w).waitKey = s.waitKey := rfl
@[simp] theorem State.halt_cycleCount (c : Cause) (w : Option Word) : (s.halt c w).cycleCount = s.cycleCount := rfl
@[simp] theorem State.halt_status (c : Cause) (w : Option Word) : (s.halt c w).status = .halted ⟨c, some s.pc, w⟩ := rfl
@[simp] theorem State.halt_mem (c : Cause) (w : Option Word) : (s.halt c w).mem = s.mem := rfl
@[simp] theorem State.halt_cyclesPerTick (c : Cause) (w : Option Word) : (s.halt c w).cyclesPerTick = s.cyclesPerTick := rfl
@[simp] theorem State.halt_input (c : Cause) (w : Option Word) : (s.halt c w).input = s.input := rfl
@[simp] theorem State.halt_displayOut (c : Cause) (w : Option Word) : (s.halt c w).displayOut = s.displayOut := rfl
@[simp] theorem State.halt_randDraws (c : Cause) (w : Option Word) : (s.halt c w).randDraws = s.randDraws := rfl
@[simp] theorem State.halt_getV (c : Cause) (w : Option Word) (q : Nibble) : (s.halt c w).getV q = s.getV q := rfl
@[simp] theorem State.halt_getKey (c : Cause) (w : Option Word) (q : Nibble) : (s.halt c w).getKey q = s.getKey q := rfl

/-! ### writeBack -/

@[simp] theorem State.writeBack_v (x : Nibble) (o : AluOut) : (s.writeBack x o).v = (s.v.set x.toNat o.result x.isLt).set regVF.toNat (flagByte o.flag) regVF.isLt := rfl
@[simp] theorem State.writeBack_i (x : Nibble) (o : AluOut) : (s.writeBack x o).i = s.i := rfl
@[simp] theorem State.writeBack_pc (x : Nibble) (o : AluOut) : (s.writeBack x o).pc = s.pc := rfl
@[simp] theorem State.writeBack_stack (x : Nibble) (o : AluOut) : (s.writeBack x o).stack = s.stack := rfl
@[simp] theorem State.writeBack_dt (x : Nibble) (o : AluOut) : (s.writeBack x o).dt = s.dt := rfl
@[simp] theorem State.writeBack_st (x : Nibble) (o : AluOut) : (s.writeBack x o).st = s.st := rfl
@[simp] theorem State.writeBack_disp (x : Nibble) (o : AluOut) : (s.writeBack x o).disp = s.disp := rfl
@[simp] theorem State.writeBack_key (x : Nibble) (o : AluOut) : (s.writeBack x o).key = s.key := rfl
@[simp] theorem State.writeBack_keyLatch (x : Nibble) (o : AluOut) : (s.writeBack x o).keyLatch = s.keyLatch := rfl
@[simp] theorem State.writeBack_lastInstr (x : Nibble) (o : AluOut) : (s.writeBack x o).lastInstr = s.lastInstr := rfl
@[simp] theorem State.writeBack_waitKey (x : Nibble) (o : AluOut) : (s.writeBack x o).waitKey = s.waitKey := rfl
@[simp] theorem State.writeBack_cycleCount (x : Nibble) (o : AluOut) : (s.writeBack x o).cycleCount = s.cycleCount := rfl
@[simp] theorem State.writeBack_status (x : Nibble) (o : AluOut) : (s.writeBack x o).status = s.status := rfl
@[simp] theorem State.writeBack_mem (x : Nibble) (o : AluOut) : (s.writeBack x o).mem = s.mem := rfl
@[simp] theorem State.writeBack_cyclesPerTick (x : Nibble) (o : AluOut) : (s.writeBack x o).cyclesPerTick = s.cyclesPerTick := rfl
@[simp] theorem State.writeBack_input (x : Nibble) (o : AluOut) : (s.writeBack x o).input = s.input := rfl
@[simp] theorem State.writeBack_displayOut (x : Nibble) (o : AluOut) : (s.writeBack x o).displayOut = s.displayOut := rfl
@[simp] theorem State.writeBack_randDraws (x : Nibble) (o : AluOut) : (s.writeBack x o).randDraws = s.randDraws := rfl
@[simp] theorem State.writeBack_getKey (x : Nibble) (o : AluOut) (q : Nibble) : (s.writeBack x o).getKey q = s.getKey q := rfl

/-! ### publish -/

@[simp] theorem State.publish_v (y : Symbol) : (s.publish y).v = s.v := rfl
@[simp] theorem State.publish_i (y : Symbol) : (s.publish y).i = s.i := rfl
@[simp] theorem State.publish_pc (y : Symbol) : (s.publish y).pc = s.pc := rfl
@[simp] theorem State.publish_stack (y : Symbol) : (s.publish y).stack = s.stack := rfl
@[simp] theorem State.publish_dt (y : Symbol) : (s.publish y).dt = s.dt := rfl
@[simp] theorem State.publish_st (y : Symbol) : (s.publish y).st = s.st := rfl
@[simp] theorem State.publish_disp (y : Symbol) : (s.publish y).disp = s.disp := rfl
@[simp] theorem State.publish_key (y : Symbol) : (s.publish y).key = s.key := rfl
@[simp] theorem State.publish_keyLatch (y : Symbol) : (s.publish y).keyLatch = s.keyLatch := rfl
@[simp] theorem State.publish_lastInstr (y : Symbol) : (s.publish y).lastInstr = s.lastInstr := rfl
@[simp] theorem State.publish_waitKey (y : Symbol) : (s.publish y).waitKey = s.waitKey := rfl
@[simp] theorem State.publish_cycleCount (y : Symbol) : (s.publish y).cycleCount = s.cycleCount := rfl
@[simp] theorem State.publish_status (y : Symbol) : (s.publish y).status = s.status := rfl
@[simp] theorem State.publish_mem (y : Symbol) : (s.publish y).mem = s.mem := rfl
@[simp] theorem State.publish_cyclesPerTick (y : Symbol) : (s.publish y).cyclesPerTick = s.cyclesPerTick := rfl
@[simp] theorem State.publish_input (y : Symbol) : (s.publish y).input = s.input := rfl
@[simp] theorem State.publish_displayOut (y : Symbol) : (s.publish y).displayOut = if y = .drwVxVyN then s.displayOut ++ [s.disp] else s.displayOut := rfl
@[simp] theorem State.publish_randDraws (y : Symbol) : (s.publish y).randDraws = s.randDraws := rfl
@[simp] theorem State.publish_getV (y : Symbol) (q : Nibble) : (s.publish y).getV q = s.getV q := rfl
@[simp] theorem State.publish_getKey (y : Symbol) (q : Nibble) : (s.publish y).getKey q = s.getKey q := rfl

/-! ### countCycle -/

@[simp] theorem State.countCycle_v : (s.countCycle).v = s.v := rfl
@[simp] theorem State.countCycle_i : (s.countCycle).i = s.i := rfl
@[simp] theorem State.countCycle_pc : (s.countCycle).pc = s.pc := rfl
@[simp] theorem State.countCycle_stack : (s.countCycle).stack = s.stack := rfl
@[simp] theorem State.countCycle_dt : (s.countCycle).dt = if s.tickDue then tickTimer s.dt else s.dt := rfl
@[simp] theorem State.countCycle_st : (s.countCycle).st = if s.tickDue then tickTimer s.st else s.st := rfl
@[simp] theorem State.countCycle_disp : (s.countCycle).disp = s.disp := rfl
@[simp] theorem State.countCycle_key : (s.countCycle).key = s.key := rfl
@[simp] theorem State.countCycle_keyLatch : (s.countCycle).keyLatch = s.keyLatch := rfl
@[simp] theorem State.countCycle_lastInstr : (s.countCycle).lastInstr = s.lastInstr := rfl
@[simp] theorem State.countCycle_waitKey : (s.countCycle).waitKey = s.waitKey := rfl
@[simp] theorem State.countCycle_cycleCount : (s.countCycle).cycleCount = if s.tickDue then 0 else s.cycleCount + 1 := rfl
@[simp] theorem State.countCycle_status : (s.countCycle).status = s.status := rfl
@[simp] theorem State.countCycle_mem : (s.countCycle).mem = s.mem := rfl
@[simp] theorem State.countCycle_cyclesPerTick : (s.countCycle).cyclesPerTick = s.cyclesPerTick := rfl
@[simp] theorem State.countCycle_input : (s.countCycle).input = s.input := rfl
@[simp] theorem State.countCycle_displayOut : (s.countCycle).displayOut = s.displayOut := rfl
@[simp] theorem State.countCycle_randDraws : (s.countCycle).randDraws = s.randDraws := rfl
@[simp] theorem State.countCycle_getV (q : Nibble) : (s.countCycle).getV q = s.getV q := rfl
@[simp] theorem State.countCycle_getKey (q : Nibble) : (s.countCycle).getKey q = s.getKey q := rfl

/-! ### endCycle -/

@[simp] theorem State.endCycle_v (y : Symbol) : (s.endCycle y).v = s.v := rfl
@[simp] theorem State.endCycle_i (y : Symbol) : (s.endCycle y).i = s.i := rfl
@[simp] theorem State.endCycle_pc (y : Symbol) : (s.endCycle y).pc = s.pc := rfl
@[simp] theorem State.endCycle_stack (y : Symbol) : (s.endCycle y).stack = s.stack := rfl
@[simp] theorem State.endCycle_dt (y : Symbol) : (s.endCycle y).dt = if s.tickDue then tickTimer s.dt else s.dt := rfl
@[simp] theorem State.endCycle_st (y : Symbol) : (s.endCycle y).st = if s.tickDue then tickTimer s.st else s.st := rfl
@[simp] theorem State.endCycle_disp (y : Symbol) : (s.endCycle y).disp = s.disp := rfl
@[simp] theorem State.endCycle_key (y : Symbol) : (s.endCycle y).key = s.key := rfl
@[simp] theorem State.endCycle_keyLatch (y : Symbol) : (s.endCycle y).keyLatch = none := rfl
@[simp] theorem State.endCycle_lastInstr (y : Symbol) : (s.endCycle y).lastInstr = some y := rfl
@[simp] theorem State.endCycle_waitKey (y : Symbol) : (s.endCycle y).waitKey = s.waitKey := rfl
@[simp] theorem State.endCycle_cycleCount (y : Symbol) : (s.endCycle y).cycleCount = if s.tickDue then 0 else s.cycleCount + 1 := rfl
@[simp] theorem State.endCycle_status (y : Symbol) : (s.endCycle y).status = s.status := rfl
@[simp] theorem State.endCycle_mem (y : Symbol) : (s.endCycle y).mem = s.mem := rfl
@[simp] theorem State.endCycle_cyclesPerTick (y : Symbol) : (s.endCycle y).cyclesPerTick = s.cyclesPerTick := rfl
@[simp] theorem State.endCycle_input (y : Symbol) : (s.endCycle y).input = s.input := rfl
@[simp] theorem State.endCycle_displayOut (y : Symbol) : (s.endCycle y).displayOut = if y = .drwVxVyN then s.displayOut ++ [s.disp] else s.displayOut := rfl
@[simp] theorem State.endCycle_randDraws (y : Symbol) : (s.endCycle y).randDraws = s.randDraws := rfl
@[simp] theorem State.endCycle_getV (y : Symbol) (q : Nibble) : (s.endCycle y).getV q = s.getV q := rfl
@[simp] theorem State.endCycle_getKey (y : Symbol) (q : Nibble) : (s.endCycle y).getKey q = s.getKey q := rfl

end Sys2Proof.Machine
end

