-- ==== Sys2Proof/Laws/Registers.lean ====
section
/-! SUPPORT. What the register, key and range operations do: one lemma each. -/

namespace Sys2Proof.Machine

theorem nibble_toNat_lt (r : Nibble) : r.toNat < 16 := r.isLt

theorem State.getV_setV (s : State) (r q : Nibble) (b : Byte) :
    (s.setV r b).getV q = if q = r then b else s.getV q := by
  simp only [State.getV, State.setV, Vector.getElem_set, BitVec.toNat_eq]
  simp only [eq_comm]

@[simp] theorem State.getV_setV_same (s : State) (r : Nibble) (b : Byte) : (s.setV r b).getV r = b := by
  simp [State.getV_setV]

theorem State.getV_setV_other (s : State) {r q : Nibble} (b : Byte) (h : q ≠ r) : (s.setV r b).getV q = s.getV q := by
  simp [State.getV_setV, h]

/-- `WriteBack` (R145): VF holds the flag, any other destination the result, and no other register changes. -/
theorem State.getV_writeBack (s : State) (x q : Nibble) (o : AluOut) :
    (s.writeBack x o).getV q = if q = regVF then flagByte o.flag else if q = x then o.result else s.getV q := by
  simp [State.writeBack, State.getV_setV]

theorem State.getKey_setKey (s : State) (k q : Nibble) (b : Bool) :
    (s.setKey k b).getKey q = if q = k then b else s.getKey q := by
  simp only [State.getKey, State.setKey, Vector.getElem_set, BitVec.toNat_eq]
  simp only [eq_comm]

/-- Register files that read alike are equal. -/
theorem vector_eq_of_getV {s t : State} (h : ∀ r, s.getV r = t.getV r) : s.v = t.v := by
  apply Vector.ext
  intro k hk
  have := h (BitVec.ofNat 4 k)
  simpa [State.getV, Nat.mod_eq_of_lt hk] using this

/-- Loading registers changes the register file only. -/
theorem State.loadRegs_frame (s : State) (base n : Nat) :
    s.loadRegs base n = { s with v := (s.loadRegs base n).v } := by
  induction n with
  | zero => rfl
  | succ n ih => rw [State.loadRegs, ih]; rfl

@[simp] theorem State.loadRegs_i (s : State) (base n : Nat) : (s.loadRegs base n).i = s.i := by
  rw [State.loadRegs_frame]

@[simp] theorem State.loadRegs_pc (s : State) (base n : Nat) : (s.loadRegs base n).pc = s.pc := by
  rw [State.loadRegs_frame]

@[simp] theorem State.loadRegs_stack (s : State) (base n : Nat) : (s.loadRegs base n).stack = s.stack := by
  rw [State.loadRegs_frame]

@[simp] theorem State.loadRegs_dt (s : State) (base n : Nat) : (s.loadRegs base n).dt = s.dt := by
  rw [State.loadRegs_frame]

@[simp] theorem State.loadRegs_st (s : State) (base n : Nat) : (s.loadRegs base n).st = s.st := by
  rw [State.loadRegs_frame]

@[simp] theorem State.loadRegs_disp (s : State) (base n : Nat) : (s.loadRegs base n).disp = s.disp := by
  rw [State.loadRegs_frame]

@[simp] theorem State.loadRegs_key (s : State) (base n : Nat) : (s.loadRegs base n).key = s.key := by
  rw [State.loadRegs_frame]

@[simp] theorem State.loadRegs_keyLatch (s : State) (base n : Nat) : (s.loadRegs base n).keyLatch = s.keyLatch := by
  rw [State.loadRegs_frame]

@[simp] theorem State.loadRegs_lastInstr (s : State) (base n : Nat) : (s.loadRegs base n).lastInstr = s.lastInstr := by
  rw [State.loadRegs_frame]

@[simp] theorem State.loadRegs_waitKey (s : State) (base n : Nat) : (s.loadRegs base n).waitKey = s.waitKey := by
  rw [State.loadRegs_frame]

@[simp] theorem State.loadRegs_cycleCount (s : State) (base n : Nat) : (s.loadRegs base n).cycleCount = s.cycleCount := by
  rw [State.loadRegs_frame]

@[simp] theorem State.loadRegs_status (s : State) (base n : Nat) : (s.loadRegs base n).status = s.status := by
  rw [State.loadRegs_frame]

@[simp] theorem State.loadRegs_cyclesPerTick (s : State) (base n : Nat) : (s.loadRegs base n).cyclesPerTick = s.cyclesPerTick := by
  rw [State.loadRegs_frame]

@[simp] theorem State.loadRegs_input (s : State) (base n : Nat) : (s.loadRegs base n).input = s.input := by
  rw [State.loadRegs_frame]

@[simp] theorem State.loadRegs_displayOut (s : State) (base n : Nat) : (s.loadRegs base n).displayOut = s.displayOut := by
  rw [State.loadRegs_frame]

@[simp] theorem State.loadRegs_randDraws (s : State) (base n : Nat) : (s.loadRegs base n).randDraws = s.randDraws := by
  rw [State.loadRegs_frame]

@[simp] theorem State.loadRegs_mem (s : State) (base n : Nat) : (s.loadRegs base n).mem = s.mem := by
  rw [State.loadRegs_frame]

/-- Loading `n` registers from `base` (R205): register `k < n` gets the byte at `base + k`, the others keep theirs. -/
theorem State.getV_loadRegs (s : State) (base n : Nat) (hn : n ≤ 16) (q : Nibble) :
    (s.loadRegs base n).getV q = if q.toNat < n then s.mem.read (base + q.toNat) else s.getV q := by
  induction n with
  | zero => rfl
  | succ n ih =>
    rw [State.loadRegs, State.getV_setV, ih (by omega)]
    have hk : (BitVec.ofNat 4 n).toNat = n := by simp; omega
    by_cases h : q = BitVec.ofNat 4 n
    · simp [h, hk]
    · have : q.toNat ≠ n := fun e => h (by rw [BitVec.toNat_eq, hk, e])
      simp only [h, if_false]
      congr 1
      apply propext
      omega

/-- The bytes of registers `0 .. n-1` (R204). -/
theorem State.regBytes_get (s : State) (n k : Nat) (h : k < n) :
    (s.regBytes n)[k]? = some (s.getV (BitVec.ofNat 4 k)) := by
  simp [State.regBytes, h]

@[simp] theorem State.regBytes_length (s : State) (n : Nat) : (s.regBytes n).length = n := by
  simp [State.regBytes]

/-- A register-held index (R202, R240): the nibble of a byte at most 15, none above. -/
theorem nibbleOf_le {b : Byte} (h : b.toNat ≤ 0xF) : nibbleOf b = some (b.truncate 4) := if_pos h

theorem nibbleOf_gt {b : Byte} (h : 0xF < b.toNat) : nibbleOf b = none := if_neg (by omega)

end Sys2Proof.Machine
end

