-- ==== Sys2Proof/Laws/Flags.lean ====
section
/-! SUPPORT. What the arithmetic primitives, the operand forms and the two shapes of a register write give, as numbers:
one lemma each. -/

namespace Sys2Proof.Machine

/-! ## Primitives (R140 to R149) -/

theorem add8_result (a b : Byte) : (add8 a b).result.toNat = (a.toNat + b.toNat) % 256 := BitVec.toNat_ofNat _ _

theorem sub8_result (a b : Byte) :
    (sub8 a b).result.toNat = if b.toNat ≤ a.toNat then a.toNat - b.toNat else a.toNat + 256 - b.toNat := by
  have ha := a.isLt
  have hb := b.isLt
  simp only [sub8, BitVec.toNat_ofInt]
  split <;> omega

theorem shr8_result (a : Byte) : (shr8 a).result.toNat = a.toNat / 2 := by
  have := a.isLt
  simp only [shr8, BitVec.toNat_ofNat]
  omega

theorem shl8_result (a : Byte) : (shl8 a).result.toNat = 2 * a.toNat % 256 := BitVec.toNat_ofNat _ _

theorem shr8_flag (a : Byte) : (shr8 a).flag = decide (a.toNat % 2 = 1) := by
  simp [shr8, BitVec.getLsbD, Nat.testBit_zero]

theorem shl8_flag (a : Byte) : (shl8 a).flag = decide (128 ≤ a.toNat) := by
  have := a.isLt
  simp only [shl8, BitVec.getLsbD, Nat.testBit_eq_decide_div_mod_eq]
  exact decide_eq_decide.mpr (by omega)

theorem inc8_toNat (a k : Byte) : (inc8 a k).toNat = (a.toNat + k.toNat) % 256 := BitVec.toNat_ofNat _ _

theorem inc16_toNat (a : Word) (k : Nat) : (inc16 a k).toNat = (a.toNat + k) % 65536 := BitVec.toNat_ofNat _ _

/-- The three digits of `Bcd` (R149). -/
theorem bcd_digits (v : Byte) (k : Nat) :
    ((bcd v).getD k 0#8).toNat =
      if k = 0 then v.toNat / 100 else if k = 1 then v.toNat / 10 % 10 else if k = 2 then v.toNat % 10 else 0 := by
  have := v.isLt
  match k with
  | 0 | 1 | 2 => simp [bcd]; omega
  | k + 3 => simp [bcd]

/-- A timer after one tick (R276). -/
theorem tickTimer_toNat (b : Byte) : (tickTimer b).toNat = b.toNat - 1 := by
  have := b.isLt
  unfold tickTimer
  split
  · rename_i h; subst h; rfl
  · rename_i h
    have : b.toNat ≠ 0 := fun e => h (BitVec.eq_of_toNat_eq e)
    rw [BitVec.toNat_sub, BitVec.toNat_ofNat]
    omega

/-- The tone is on exactly when `ST` is above 0 (R278). -/
theorem State.tone_iff (s : State) : s.tone = true ↔ 0 < s.st.toNat := by
  simp [State.tone, BitVec.lt_def]

/-! ## Operand forms (R93) -/

theorem immAddr_toNat (nnn : Addr12) : (immAddr nnn).toNat = nnn.toNat := by
  have := nnn.isLt
  simp only [immAddr, BitVec.toNat_setWidth]
  omega

theorem byteWord_eq_toNat (b : Byte) : (byteWord b).toNat = b.toNat := by
  have := b.isLt
  simp only [byteWord, BitVec.toNat_setWidth]
  omega

theorem nibbleByte_toNat (k : Nibble) : (nibbleByte k).toNat = k.toNat := by
  have := k.isLt
  simp only [nibbleByte, BitVec.toNat_setWidth]
  omega

/-- A register that holds the number of a nibble names that nibble (R202, R240). -/
theorem nibbleOf_eq {b : Byte} {k : Nibble} (h : b.toNat = k.toNat) : nibbleOf b = some k := by
  have hk := k.isLt
  rw [nibbleOf_le (by omega)]
  congr 1
  apply BitVec.eq_of_toNat_eq
  simp only [BitVec.toNat_setWidth]
  omega

theorem fontAddr_toNat (d : Byte) : (fontAddr d).toNat = 5 * d.toNat := by
  have := d.isLt
  simp only [fontAddr, BitVec.toNat_ofNat]
  omega

/-! ## Shapes of a register write -/

/-- One register written, then the advance. -/
theorem State.writesV_setV (s : State) (x : Nibble) (b : Byte) : s.WritesV (s.setV x b).advance x b :=
  ⟨State.getV_setV_same s x b, fun _ h => State.getV_setV_other s b h, rfl⟩

/-- A result and its flag written back, then the advance (R145). -/
theorem State.writesFlagged_writeBack (s : State) (x : Nibble) (o : AluOut) :
    s.WritesFlagged (s.writeBack x o).advance x o.result (flagByte o.flag) := by
  have h (q : Nibble) : (s.writeBack x o).advance.getV q = (s.writeBack x o).getV q := rfl
  refine ⟨fun hx => ?_, ?_, fun r hr hf => ?_, rfl⟩
  · rw [h, State.getV_writeBack, if_neg hx, if_pos rfl]
  · rw [h, State.getV_writeBack, if_pos rfl]
  · rw [h, State.getV_writeBack, if_neg hf, if_neg hr]

end Sys2Proof.Machine
end

