-- ==== Sys2Proof/Laws/Memory.lean ====
section
/-! SUPPORT. The laws of memory: a read after a write, the canonical form that every operation keeps, and the range
check. -/

namespace Sys2Proof.Machine

/-! ## Reading after writing -/

theorem Memory.read_cons (c : Host.Cell) (m : Memory) (q : Nat) :
    Memory.read (c :: m) q = if q = c.1 then c.2 else Memory.read m q := by
  simp only [Memory.read, eq_comm]

theorem Memory.read_insert (m : Memory) (a : Nat) (b : Byte) (q : Nat) :
    (Memory.insert a b m).read q = if q = a then b else m.read q := by
  induction m with
  | nil => exact Memory.read_cons (a, b) [] q
  | cons c m ih =>
    unfold Memory.insert
    split
    · exact Memory.read_cons (a, b) (c :: m) q
    · split
      · rename_i h
        subst h
        rw [Memory.read_cons, Memory.read_cons]
        by_cases hq : q = c.1
        · simp only [hq, if_true]
        · simp only [hq, if_false]
      · rename_i h1 h2
        rw [Memory.read_cons, Memory.read_cons, ih]
        by_cases hq : q = c.1
        · have : q ≠ a := by omega
          simp only [hq, if_true, if_neg (hq ▸ this)]
        · simp only [hq, if_false]

theorem Memory.read_filter (m : Memory) (a q : Nat) :
    Memory.read (m.filter (fun c => c.1 != a)) q = if q = a then Memory.unlisted a else m.read q := by
  induction m with
  | nil =>
    by_cases hq : q = a
    · simp only [List.filter_nil, Memory.read, hq, if_true]
    · simp only [List.filter_nil, Memory.read, hq, if_false]
  | cons c m ih =>
    rw [List.filter_cons, Memory.read_cons]
    by_cases h : c.1 = a
    · rw [if_neg (by simp [h]), ih, h]
      by_cases hq : q = a
      · simp only [hq, if_true]
      · simp only [hq, if_false]
    · rw [if_pos (by simpa using h), Memory.read_cons, ih]
      by_cases hq : q = c.1
      · simp only [hq, if_true, h, if_false]
      · simp only [hq, if_false]

/-- A write followed by a read (R68, R72): the byte written at that address, every other byte as before. -/
theorem Memory.read_write (m : Memory) (a : Nat) (b : Byte) (q : Nat) :
    (m.write a b).read q = if q = a then b else m.read q := by
  unfold Memory.write
  split
  · rename_i h; rw [Memory.read_filter, h]
  · exact Memory.read_insert m a b q

/-- Writing bytes upward from `a`: byte `k` at `a + k`, every other byte as before. -/
theorem Memory.read_writeBytes (m : Memory) (a : Nat) (bs : List Byte) (q : Nat) :
    (m.writeBytes a bs).read q = if a ≤ q ∧ q < a + bs.length then bs.getD (q - a) 0#8 else m.read q := by
  induction bs generalizing m a with
  | nil => simp only [Memory.writeBytes, List.length_nil]; split <;> first | omega | rfl
  | cons b bs ih =>
    rw [Memory.writeBytes, ih, Memory.read_write]
    simp only [List.length_cons]
    by_cases hq : q = a
    · subst hq
      have h1 : ¬ (q + 1 ≤ q ∧ q < q + 1 + bs.length) := by omega
      have h2 : q ≤ q ∧ q < q + (bs.length + 1) := by omega
      rw [if_neg h1, if_pos h2, if_pos rfl, Nat.sub_self, List.getD_cons_zero]
    · by_cases h : a + 1 ≤ q ∧ q < a + 1 + bs.length
      · have h2 : a ≤ q ∧ q < a + (bs.length + 1) := by omega
        have h3 : q - a = (q - (a + 1)) + 1 := by omega
        rw [if_pos h, if_pos h2, h3, List.getD_cons_succ]
      · have h2 : ¬ (a ≤ q ∧ q < a + (bs.length + 1)) := by omega
        rw [if_neg h, if_neg h2, if_neg hq]

@[simp] theorem Memory.readBytes_length (m : Memory) (a n : Nat) : (m.readBytes a n).length = n := by
  simp [Memory.readBytes]

theorem Memory.readBytes_getElem? (m : Memory) (a n k : Nat) (h : k < n) :
    (m.readBytes a n)[k]? = some (m.read (a + k)) := by
  simp [Memory.readBytes, h]

/-! ## The canonical form -/

theorem Memory.mem_insert (m : Memory) (a : Nat) (b : Byte) {c : Host.Cell} (h : c ∈ Memory.insert a b m) :
    c = (a, b) ∨ c ∈ m := by
  induction m with
  | nil => exact .inl (List.mem_singleton.mp h)
  | cons d m ih =>
    unfold Memory.insert at h
    split at h
    · simpa using h
    · split at h
      · rcases List.mem_cons.mp h with rfl | h
        · exact .inl rfl
        · exact .inr (List.mem_cons_of_mem _ h)
      · rcases List.mem_cons.mp h with rfl | h
        · exact .inr List.mem_cons_self
        · rcases ih h with rfl | h
          · exact .inl rfl
          · exact .inr (List.mem_cons_of_mem _ h)

theorem Memory.insert_pairwise (m : Memory) (a : Nat) (b : Byte) (h : m.Pairwise (fun c d => c.1 < d.1)) :
    (Memory.insert a b m).Pairwise (fun c d => c.1 < d.1) := by
  induction m with
  | nil => simp [Memory.insert]
  | cons c m ih =>
    obtain ⟨hc, hm⟩ := List.pairwise_cons.mp h
    unfold Memory.insert
    split
    · rename_i hlt
      refine List.pairwise_cons.mpr ⟨fun d hd => ?_, h⟩
      rcases List.mem_cons.mp hd with rfl | hd
      · exact hlt
      · exact Nat.lt_trans hlt (hc d hd)
    · split
      · rename_i heq
        exact List.pairwise_cons.mpr ⟨fun d hd => heq ▸ hc d hd, hm⟩
      · rename_i h1 h2
        refine List.pairwise_cons.mpr ⟨fun d hd => ?_, ih hm⟩
        rcases Memory.mem_insert m a b hd with rfl | hd
        · show c.1 < a
          omega
        · exact hc d hd

/-- A write at a valid address keeps the canonical form. -/
theorem Memory.wf_write {m : Memory} (h : m.wf) {a : Nat} (ha : a ≤ Config.maxAddress) (b : Byte) :
    (m.write a b).wf := by
  unfold Memory.write
  split
  · exact ⟨h.1.filter _, fun c hc => h.2 c (List.mem_of_mem_filter hc)⟩
  · rename_i hb
    refine ⟨Memory.insert_pairwise m a b h.1, fun c hc => ?_⟩
    rcases Memory.mem_insert m a b hc with rfl | hc
    · exact ⟨ha, hb⟩
    · exact h.2 c hc

/-- Writing bytes that all fall on valid addresses keeps the canonical form. -/
theorem Memory.wf_writeBytes {m : Memory} (h : m.wf) {a : Nat} {bs : List Byte}
    (ha : a + bs.length ≤ Config.maxAddress + 1) : (m.writeBytes a bs).wf := by
  induction bs generalizing m a with
  | nil => exact h
  | cons b bs ih =>
    simp only [List.length_cons] at ha
    exact ih (Memory.wf_write h (by omega) b) (by omega)

/-- The memory of the reset state is in the canonical form. -/
theorem Memory.wf_reset : State.reset.mem.wf := by
  simp [State.reset, Memory.wf]

/-! ## The range check (R64) -/

/-- The check passes exactly when every byte of the access is at or below 0xFFF. -/
theorem firstInvalid_none_iff (base len : Nat) :
    firstInvalid base len = none ↔ len = 0 ∨ base + len ≤ Config.maxAddress + 1 := by
  unfold firstInvalid
  split <;> simp only [reduceCtorEq, false_iff, true_iff] <;> omega

/-- It fails with the first invalid address: the base, or 0x1000 when the base is valid (R261). -/
theorem firstInvalid_some {base len : Nat} (h0 : 0 < len) (h : Config.maxAddress + 1 < base + len) :
    firstInvalid base len = some (max base 0x1000) := by
  unfold firstInvalid
  rw [if_pos ⟨h0, by omega⟩]

end Sys2Proof.Machine
end

