-- ==== Sys2Proof/Laws/PerInstr.lean ====
section
/-! SUPPORT. Statements about every instruction as syntax, one lemma per constructor. -/

namespace Sys2Proof.Laws.EncodesItsRow

/-- The word of an instruction of rows 1 to 34 belongs to its own row of the opcode map: the encoder puts the fixed
nibbles where the row has them (R92, R95). -/
def Statement (i : Instr) : Prop :=
  i.symbol = .nop ∨ ∃ r ∈ opcodeRows, r.symbol = i.symbol ∧ r.matches (encode i) = true

theorem cls : Statement .cls :=
  .inr ⟨⟨.cls, 0x00E0, 0xFFFF⟩, by decide, rfl, by decide⟩

theorem ret : Statement .ret :=
  .inr ⟨⟨.ret, 0x00EE, 0xFFFF⟩, by decide, rfl, by decide⟩

theorem jpAddr (nnn : Addr12) : Statement (.jpAddr nnn) :=
  .inr ⟨⟨.jpAddr, 0x1000, 0xF000⟩, by decide, rfl, by simp [OpcodeRow.matches, mask_n0, encode]⟩

theorem callAddr (nnn : Addr12) : Statement (.callAddr nnn) :=
  .inr ⟨⟨.callAddr, 0x2000, 0xF000⟩, by decide, rfl, by simp [OpcodeRow.matches, mask_n0, encode]⟩

theorem seVxByte (x : Nibble) (kk : Byte) : Statement (.seVxByte x kk) :=
  .inr ⟨⟨.seVxByte, 0x3000, 0xF000⟩, by decide, rfl, by simp [OpcodeRow.matches, mask_n0, encode]⟩

theorem sneVxByte (x : Nibble) (kk : Byte) : Statement (.sneVxByte x kk) :=
  .inr ⟨⟨.sneVxByte, 0x4000, 0xF000⟩, by decide, rfl, by simp [OpcodeRow.matches, mask_n0, encode]⟩

theorem seVxVy (x : Nibble) (y : Nibble) : Statement (.seVxVy x y) :=
  .inr ⟨⟨.seVxVy, 0x5000, 0xF00F⟩, by decide, rfl, by simp [OpcodeRow.matches, mask_n0_n, encode]⟩

theorem ldVxByte (x : Nibble) (kk : Byte) : Statement (.ldVxByte x kk) :=
  .inr ⟨⟨.ldVxByte, 0x6000, 0xF000⟩, by decide, rfl, by simp [OpcodeRow.matches, mask_n0, encode]⟩

theorem addVxByte (x : Nibble) (kk : Byte) : Statement (.addVxByte x kk) :=
  .inr ⟨⟨.addVxByte, 0x7000, 0xF000⟩, by decide, rfl, by simp [OpcodeRow.matches, mask_n0, encode]⟩

theorem ldVxVy (x : Nibble) (y : Nibble) : Statement (.ldVxVy x y) :=
  .inr ⟨⟨.ldVxVy, 0x8000, 0xF00F⟩, by decide, rfl, by simp [OpcodeRow.matches, mask_n0_n, encode]⟩

theorem orVxVy (x : Nibble) (y : Nibble) : Statement (.orVxVy x y) :=
  .inr ⟨⟨.orVxVy, 0x8001, 0xF00F⟩, by decide, rfl, by simp [OpcodeRow.matches, mask_n0_n, encode]⟩

theorem andVxVy (x : Nibble) (y : Nibble) : Statement (.andVxVy x y) :=
  .inr ⟨⟨.andVxVy, 0x8002, 0xF00F⟩, by decide, rfl, by simp [OpcodeRow.matches, mask_n0_n, encode]⟩

theorem xorVxVy (x : Nibble) (y : Nibble) : Statement (.xorVxVy x y) :=
  .inr ⟨⟨.xorVxVy, 0x8003, 0xF00F⟩, by decide, rfl, by simp [OpcodeRow.matches, mask_n0_n, encode]⟩

theorem addVxVy (x : Nibble) (y : Nibble) : Statement (.addVxVy x y) :=
  .inr ⟨⟨.addVxVy, 0x8004, 0xF00F⟩, by decide, rfl, by simp [OpcodeRow.matches, mask_n0_n, encode]⟩

theorem subVxVy (x : Nibble) (y : Nibble) : Statement (.subVxVy x y) :=
  .inr ⟨⟨.subVxVy, 0x8005, 0xF00F⟩, by decide, rfl, by simp [OpcodeRow.matches, mask_n0_n, encode]⟩

theorem shrVxVy (x : Nibble) (y : Nibble) : Statement (.shrVxVy x y) :=
  .inr ⟨⟨.shrVxVy, 0x8006, 0xF00F⟩, by decide, rfl, by simp [OpcodeRow.matches, mask_n0_n, encode]⟩

theorem subnVxVy (x : Nibble) (y : Nibble) : Statement (.subnVxVy x y) :=
  .inr ⟨⟨.subnVxVy, 0x8007, 0xF00F⟩, by decide, rfl, by simp [OpcodeRow.matches, mask_n0_n, encode]⟩

theorem shlVxVy (x : Nibble) (y : Nibble) : Statement (.shlVxVy x y) :=
  .inr ⟨⟨.shlVxVy, 0x800E, 0xF00F⟩, by decide, rfl, by simp [OpcodeRow.matches, mask_n0_n, encode]⟩

theorem sneVxVy (x : Nibble) (y : Nibble) : Statement (.sneVxVy x y) :=
  .inr ⟨⟨.sneVxVy, 0x9000, 0xF00F⟩, by decide, rfl, by simp [OpcodeRow.matches, mask_n0_n, encode]⟩

theorem ldIAddr (nnn : Addr12) : Statement (.ldIAddr nnn) :=
  .inr ⟨⟨.ldIAddr, 0xA000, 0xF000⟩, by decide, rfl, by simp [OpcodeRow.matches, mask_n0, encode]⟩

theorem jpV0Addr (nnn : Addr12) : Statement (.jpV0Addr nnn) :=
  .inr ⟨⟨.jpV0Addr, 0xB000, 0xF000⟩, by decide, rfl, by simp [OpcodeRow.matches, mask_n0, encode]⟩

theorem rndVxByte (x : Nibble) (kk : Byte) : Statement (.rndVxByte x kk) :=
  .inr ⟨⟨.rndVxByte, 0xC000, 0xF000⟩, by decide, rfl, by simp [OpcodeRow.matches, mask_n0, encode]⟩

theorem drwVxVyN (x : Nibble) (y : Nibble) (n : Nibble) : Statement (.drwVxVyN x y n) :=
  .inr ⟨⟨.drwVxVyN, 0xD000, 0xF000⟩, by decide, rfl, by simp [OpcodeRow.matches, mask_n0, encode]⟩

theorem skpVx (x : Nibble) : Statement (.skpVx x) :=
  .inr ⟨⟨.skpVx, 0xE09E, 0xF0FF⟩, by decide, rfl, by simp [OpcodeRow.matches, mask_n0_kk, encode]⟩

theorem sknpVx (x : Nibble) : Statement (.sknpVx x) :=
  .inr ⟨⟨.sknpVx, 0xE0A1, 0xF0FF⟩, by decide, rfl, by simp [OpcodeRow.matches, mask_n0_kk, encode]⟩

theorem ldVxDT (x : Nibble) : Statement (.ldVxDT x) :=
  .inr ⟨⟨.ldVxDT, 0xF007, 0xF0FF⟩, by decide, rfl, by simp [OpcodeRow.matches, mask_n0_kk, encode]⟩

theorem ldVxK (x : Nibble) : Statement (.ldVxK x) :=
  .inr ⟨⟨.ldVxK, 0xF00A, 0xF0FF⟩, by decide, rfl, by simp [OpcodeRow.matches, mask_n0_kk, encode]⟩

theorem ldDTVx (x : Nibble) : Statement (.ldDTVx x) :=
  .inr ⟨⟨.ldDTVx, 0xF015, 0xF0FF⟩, by decide, rfl, by simp [OpcodeRow.matches, mask_n0_kk, encode]⟩

theorem ldSTVx (x : Nibble) : Statement (.ldSTVx x) :=
  .inr ⟨⟨.ldSTVx, 0xF018, 0xF0FF⟩, by decide, rfl, by simp [OpcodeRow.matches, mask_n0_kk, encode]⟩

theorem addIVx (x : Nibble) : Statement (.addIVx x) :=
  .inr ⟨⟨.addIVx, 0xF01E, 0xF0FF⟩, by decide, rfl, by simp [OpcodeRow.matches, mask_n0_kk, encode]⟩

theorem ldFVx (x : Nibble) : Statement (.ldFVx x) :=
  .inr ⟨⟨.ldFVx, 0xF029, 0xF0FF⟩, by decide, rfl, by simp [OpcodeRow.matches, mask_n0_kk, encode]⟩

theorem ldBVx (x : Nibble) : Statement (.ldBVx x) :=
  .inr ⟨⟨.ldBVx, 0xF033, 0xF0FF⟩, by decide, rfl, by simp [OpcodeRow.matches, mask_n0_kk, encode]⟩

theorem ldMemIVx (x : Nibble) : Statement (.ldMemIVx x) :=
  .inr ⟨⟨.ldMemIVx, 0xF055, 0xF0FF⟩, by decide, rfl, by simp [OpcodeRow.matches, mask_n0_kk, encode]⟩

theorem ldVxMemI (x : Nibble) : Statement (.ldVxMemI x) :=
  .inr ⟨⟨.ldVxMemI, 0xF065, 0xF0FF⟩, by decide, rfl, by simp [OpcodeRow.matches, mask_n0_kk, encode]⟩

theorem nop (w : Word) : Statement (.nop w) := .inl rfl

end Sys2Proof.Laws.EncodesItsRow
end

