-- ==== Sys2Proof/Laws/Sequencer.lean ====
section
/-! SUPPORT. What the steps of the cycle do (R121): input, and one inversion lemma for the whole step. -/

namespace Sys2Proof.Machine

/-! ## Input -/

/-- Input changes the keypad, the latch and the status only (R38). -/
theorem State.applyEvents_frame (s : State) (es : List InputEvent) :
    s.applyEvents es = { s with
      key := (s.applyEvents es).key
      keyLatch := (s.applyEvents es).keyLatch
      status := (s.applyEvents es).status } := by
  induction es generalizing s with
  | nil => rfl
  | cons e es ih =>
    cases e with
    | quit => rfl
    | keyDown k => simp only [State.applyEvents]; rw [ih]; rfl
    | keyUp k => simp only [State.applyEvents]; rw [ih]; rfl

/-- Without a quit among the events the status stays (R122). -/
theorem State.applyEvents_status (s : State) {es : List InputEvent} (h : .quit ∉ es) :
    (s.applyEvents es).status = s.status := by
  induction es generalizing s with
  | nil => rfl
  | cons e es ih =>
    cases e with
    | quit => exact absurd List.mem_cons_self h
    | keyDown k => simp only [State.applyEvents]; rw [ih _ (fun hq => h (List.mem_cons_of_mem _ hq))]; rfl
    | keyUp k => simp only [State.applyEvents]; rw [ih _ (fun hq => h (List.mem_cons_of_mem _ hq))]; rfl

/-- Events before a quit are applied, the quit halts, those after it are dropped (R122). -/
theorem State.applyEvents_quit (s : State) {pre : List InputEvent} (post : List InputEvent) (h : .quit ∉ pre) :
    s.applyEvents (pre ++ .quit :: post) = (s.applyEvents pre).halt .quit none := by
  induction pre generalizing s with
  | nil => rfl
  | cons e es ih =>
    cases e with
    | quit => exact absurd List.mem_cons_self h
    | keyDown k => exact ih _ (fun hq => h (List.mem_cons_of_mem _ hq))
    | keyUp k => exact ih _ (fun hq => h (List.mem_cons_of_mem _ hq))

/-- Step 1 changes the keypad, the latch, the status and the input port only. -/
theorem State.applyInput_frame (s : State) :
    s.applyInput = { s with
      key := s.applyInput.key
      keyLatch := s.applyInput.keyLatch
      status := s.applyInput.status
      input := s.input.tail } := by
  rw [State.applyInput, State.applyEvents_frame]; rfl

@[simp] theorem State.applyInput_v (s : State) : s.applyInput.v = s.v := by rw [State.applyInput_frame]
@[simp] theorem State.applyInput_i (s : State) : s.applyInput.i = s.i := by rw [State.applyInput_frame]
@[simp] theorem State.applyInput_pc (s : State) : s.applyInput.pc = s.pc := by rw [State.applyInput_frame]
@[simp] theorem State.applyInput_stack (s : State) : s.applyInput.stack = s.stack := by rw [State.applyInput_frame]
@[simp] theorem State.applyInput_dt (s : State) : s.applyInput.dt = s.dt := by rw [State.applyInput_frame]
@[simp] theorem State.applyInput_st (s : State) : s.applyInput.st = s.st := by rw [State.applyInput_frame]
@[simp] theorem State.applyInput_disp (s : State) : s.applyInput.disp = s.disp := by rw [State.applyInput_frame]
@[simp] theorem State.applyInput_lastInstr (s : State) : s.applyInput.lastInstr = s.lastInstr := by
  rw [State.applyInput_frame]
@[simp] theorem State.applyInput_waitKey (s : State) : s.applyInput.waitKey = s.waitKey := by rw [State.applyInput_frame]
@[simp] theorem State.applyInput_cycleCount (s : State) : s.applyInput.cycleCount = s.cycleCount := by
  rw [State.applyInput_frame]
@[simp] theorem State.applyInput_mem (s : State) : s.applyInput.mem = s.mem := by rw [State.applyInput_frame]
@[simp] theorem State.applyInput_cyclesPerTick (s : State) : s.applyInput.cyclesPerTick = s.cyclesPerTick := by
  rw [State.applyInput_frame]
@[simp] theorem State.applyInput_input (s : State) : s.applyInput.input = s.input.tail := by rw [State.applyInput_frame]
@[simp] theorem State.applyInput_displayOut (s : State) : s.applyInput.displayOut = s.displayOut := by
  rw [State.applyInput_frame]
@[simp] theorem State.applyInput_randDraws (s : State) : s.applyInput.randDraws = s.randDraws := by
  rw [State.applyInput_frame]
@[simp] theorem State.applyInput_getV (s : State) (q : Nibble) : s.applyInput.getV q = s.getV q := by
  rw [State.applyInput_frame]; rfl
@[simp] theorem State.applyInput_fetchWord (s : State) : s.applyInput.fetchWord = s.fetchWord := by
  rw [State.applyInput_frame]; rfl
@[simp] theorem State.applyInput_fetchFault (s : State) : s.applyInput.fetchFault = s.fetchFault := by
  rw [State.applyInput_frame]; rfl

/-- A running machine is still running after an input without a quit. -/
theorem State.applyInput_status (s : State) (h : .quit ∉ s.cycleEvents) : s.applyInput.status = s.status :=
  State.applyEvents_status _ h

theorem State.isHalted_iff (s : State) : s.isHalted = true ↔ s.status ≠ .running := by
  unfold State.isHalted; split <;> simp_all

theorem State.isHalted_eq_false (s : State) : s.isHalted = false ↔ s.status = .running := by
  unfold State.isHalted; split <;> simp_all

@[simp] theorem State.halt_isHalted (s : State) (c : Cause) (w : Option Word) : (s.halt c w).isHalted = true := rfl

/-! ## The step -/

/-- All a step that answers a next state can have done: the machine was running, and its cycle ended at the input (a
quit), at the fetch, in a fault of its instruction, or in full. -/
theorem step_cases {s t : State} (h : step s = .next t) :
    s.status = .running ∧
    ((s.applyInput.isHalted = true ∧ t = s.applyInput) ∨
     (s.applyInput.isHalted = false ∧ ∃ a, s.fetchFault = some a ∧ t = s.applyInput.halt (.addressOutOfRange a) none) ∨
     (s.applyInput.isHalted = false ∧ s.fetchFault = none ∧ ∃ u, exec (decode s.fetchWord) s.applyInput = .next u ∧
       ((u.isHalted = true ∧ t = u) ∨ (u.isHalted = false ∧ t = u.endCycle (decode s.fetchWord).symbol)))) := by
  unfold step at h
  split at h
  · cases h
  · rename_i hrun
    refine ⟨hrun, ?_⟩
    unfold cycleAfterInput at h
    split at h
    · rename_i hh
      cases h
      exact .inl ⟨hh, rfl⟩
    · rename_i hh
      rw [Bool.not_eq_true] at hh
      rw [State.applyInput_fetchFault] at h
      split at h
      · rename_i a ha
        cases h
        exact .inr (.inl ⟨hh, a, ha, rfl⟩)
      · rename_i ha
        rw [State.applyInput_fetchWord] at h
        refine .inr (.inr ⟨hh, ha, ?_⟩)
        generalize hex : exec (decode s.fetchWord) s.applyInput = r at h
        cases r with
        | fault r => cases h
        | refused r => cases h
        | next u =>
          refine ⟨u, rfl, ?_⟩
          simp only [finishCycle] at h
          injection h with h
          split at h
          · rename_i hu; exact .inl ⟨hu, h.symm⟩
          · rename_i hu; exact .inr ⟨by simpa using hu, h.symm⟩

end Sys2Proof.Machine
end

