-- ==== Sys2Proof/Tests/Slice0.lean ====
section
/-! SUPPORT. The model's own tests. Expected results are the spec's vectors (95_test_vectors.md, named by their id in
each docstring) or hand calculation from the rules; the last part shows, for each statement with hypotheses, a state and
operands that meet them. -/

open Sys2Proof
open Sys2Proof.Machine

namespace Sys2Proof.Tests

-- One theorem at a time: a thread for each would pass the memory that a compile may take.
set_option Elab.async false

/-! ## Helpers -/

/-- The start of a single-instruction vector: the reset state with the word at 0x200 and no tick near (95, Conventions). -/
def start (w : Nat) : State := { State.reset.withFetchWord 16 w with cyclesPerTick := 1000 }

/-- Set registers. -/
def regs (l : List (Nibble × Byte)) (s : State) : State := l.foldl (fun u p => u.setV p.1 p.2) s

/-- Set memory bytes from an address up. -/
def bytes (a : Nat) (l : List Byte) (s : State) : State := s.setMem (s.mem.writeBytes a l)

/-- The display on which exactly the listed cells are lit. -/
def lit (l : List Nat) : Display := l.foldl (fun d q => d.flip (q % 64) (q / 64)) Display.blank

/-- The display with every cell lit. -/
def allLit : Display := Vector.replicate 32 (BitVec.allOnes 64)

/-- The outcome is a next state of which `p` holds. -/
def ends (r : Result) (p : State → Bool) : Bool :=
  match r with
  | .next t => p t
  | .fault _ => false
  | .refused _ => false

/-- A key is down. -/
def press (k : Nibble) (s : State) : State := s.setKey k true

/-- The events of the next cycles. -/
def events (l : List (List InputEvent)) (s : State) : State := { s with input := l }

/-- A stack of `n` entries. -/
def deep (n : Nat) (s : State) : State := s.setStack (List.replicate n 0x300#16)

/-- The status after a fault in the cycle that fetched `word` at 0x200. -/
def haltedOn (c : Cause) (word : Word) : Status := .halted ⟨c, some 0x200#16, some word⟩

/-! ## Well-formedness -/

/-- The one check, on an ill-formed term: 0x1234 is a word of `JP addr`, so no `NOP` may hold it. -/
theorem test_nop_of_a_recognized_word_is_ill_formed :
    (Instr.nop 0x1234).wellFormed = false ∧ (Instr.nop 0x00E0).wellFormed = false ∧
    (Instr.nop 0x5123).wellFormed = true := by decide +kernel

/-! ## Decoding -/

/-- DE1, first half. -/
theorem test_decode_words_0_to_8 :
    decode 0x00E0 = .cls ∧ decode 0x00EE = .ret ∧ decode 0x1ABC = .jpAddr 0xABC ∧ decode 0x2210 = .callAddr 0x210 ∧
    decode 0x3A7F = .seVxByte 10 0x7F ∧ decode 0x4B00 = .sneVxByte 11 0x00 ∧ decode 0x5120 = .seVxVy 1 2 ∧
    decode 0x6A2F = .ldVxByte 10 0x2F ∧ decode 0x71FF = .addVxByte 1 0xFF ∧ decode 0x8120 = .ldVxVy 1 2 ∧
    decode 0x8121 = .orVxVy 1 2 ∧ decode 0x8122 = .andVxVy 1 2 ∧ decode 0x8123 = .xorVxVy 1 2 ∧
    decode 0x8014 = .addVxVy 0 1 ∧ decode 0x8015 = .subVxVy 0 1 ∧ decode 0x8016 = .shrVxVy 0 1 ∧
    decode 0x8017 = .subnVxVy 0 1 ∧ decode 0x801E = .shlVxVy 0 1 := by decide +kernel

/-- DE1, second half. -/
theorem test_decode_words_9_to_F :
    decode 0x9120 = .sneVxVy 1 2 ∧ decode 0xA300 = .ldIAddr 0x300 ∧ decode 0xB300 = .jpV0Addr 0x300 ∧
    decode 0xC30F = .rndVxByte 3 0x0F ∧ decode 0xD125 = .drwVxVyN 1 2 5 ∧ decode 0xE39E = .skpVx 3 ∧
    decode 0xE3A1 = .sknpVx 3 ∧ decode 0xF207 = .ldVxDT 2 ∧ decode 0xF10A = .ldVxK 1 ∧ decode 0xF015 = .ldDTVx 0 ∧
    decode 0xF418 = .ldSTVx 4 ∧ decode 0xF11E = .addIVx 1 ∧ decode 0xF029 = .ldFVx 0 ∧ decode 0xF033 = .ldBVx 0 ∧
    decode 0xF155 = .ldMemIVx 1 ∧ decode 0xF265 = .ldVxMemI 2 ∧ decode 0x5123 = .nop 0x5123 := by decide +kernel

/-- The encoder gives back the words of DE1, one per family. -/
theorem test_encode_gives_the_words :
    encode (.jpAddr 0xABC) = 0x1ABC ∧ encode (.seVxByte 10 0x7F) = 0x3A7F ∧ encode (.subnVxVy 0 1) = 0x8017 ∧
    encode (.sneVxVy 1 2) = 0x9120 ∧ encode (.drwVxVyN 1 2 5) = 0xD125 ∧ encode (.sknpVx 3) = 0xE3A1 ∧
    encode (.ldVxMemI 2) = 0xF265 ∧ encodeBytes (.jpAddr 0x234) = [0x12, 0x34] := by decide +kernel

/-- DE2, the edges of the `NOP` set. -/
theorem test_decode_nop_edges :
    ([0x0000#16, 0x0001, 0x00DF, 0x00E1, 0x00ED, 0x00EF, 0x00FE, 0x01E0, 0x0EE0, 0x0FFF, 0x5121, 0x512F, 0x5001,
      0x8128, 0x8129, 0x812D, 0x812F, 0x9121, 0x912F, 0xE09D, 0xE09F, 0xE0A0, 0xE0A2, 0xE000, 0xE1FF, 0xF000, 0xF006,
      0xF008, 0xF00B, 0xF014, 0xF016, 0xF017, 0xF019, 0xF01D, 0xF01F, 0xF028, 0xF02A, 0xF032, 0xF034, 0xF054, 0xF056,
      0xF064, 0xF066, 0xF075, 0xF085, 0xF0FF].all fun w => decode w == .nop w) = true := by decide +kernel

/-- DE3, words that are not `NOP`. -/
theorem test_decode_not_nop :
    decode 0x1000 = .jpAddr 0 ∧ decode 0x2000 = .callAddr 0 ∧ decode 0xD000 = .drwVxVyN 0 0 0 ∧
    decode 0xB000 = .jpV0Addr 0 ∧ decode 0xFF65 = .ldVxMemI 15 ∧ decode 0x8FFE = .shlVxVy 15 15 ∧
    decode 0x5FF0 = .seVxVy 15 15 ∧ decode 0xC000 = .rndVxByte 0 0 := by decide +kernel

/-- DE5: 0x12 at the lower address and 0x34 at the higher is `JP 0x234`. -/
theorem test_byte_order :
    decodeTableWord 16 0x1234 = some (.jpAddr 0x234) ∧ (bytes 0x200 [0x12, 0x34] State.reset).fetchWord = 0x1234 := by
  decide +kernel

/-! ## Primitives -/

/-- AL, the flag primitives. -/
theorem test_alu_primitives :
    add8 0xFF 0x02 = ⟨0x01, true⟩ ∧ add8 0x80 0x7F = ⟨0xFF, false⟩ ∧ sub8 0x05 0x0A = ⟨0xFB, false⟩ ∧
    sub8 0x80 0x80 = ⟨0x00, true⟩ ∧ shr8 0x81 = ⟨0x40, true⟩ ∧ shr8 0x80 = ⟨0x40, false⟩ ∧
    shl8 0x81 = ⟨0x02, true⟩ ∧ shl8 0x7F = ⟨0xFE, false⟩ ∧ or8 0xF0 0x0F = ⟨0xFF, false⟩ ∧
    and8 0xF0 0x3C = ⟨0x30, false⟩ ∧ xor8 0xFF 0x0F = ⟨0xF0, false⟩ := by decide +kernel

/-- AL, the primitives without a flag. -/
theorem test_plain_primitives :
    inc8 0x05 0xFF = 0x04 ∧ inc16 0xFFFF 1 = 0x0000 ∧ inc16 0x0F01 0xFF = 0x1000 ∧ bcd 255 = [2, 5, 5] ∧
    bcd 7 = [0, 0, 7] ∧ bcd 199 = [1, 9, 9] ∧
    (List.range 8).map (bits8 0x90) = [true, false, false, true, false, false, false, false] := by decide +kernel

/-! ## Control transfer -/

/-- CF2: only `pc` moves. -/
theorem test_nop_advances :
    ends (step ((regs [(0, 0x11), (15, 1)] (start 0x5123)).setI 0x456)) (fun t =>
      t.pc == 0x202 && t.getV 0 == 0x11 && t.getV 15 == 1 && t.i == 0x456 && t.lastInstr == some .nop) := by
  decide +kernel

/-- CF4. -/
theorem test_ret_pops_the_newest :
    ends (step ((start 0x00EE).setStack [0x0ABC, 0x0300])) (fun t => t.pc == 0x0ABC && t.stack == [0x0300]) := by
  decide +kernel

/-- CF5: the fault leaves `pc`, the last instruction and the cycle count. -/
theorem test_ret_on_an_empty_stack :
    ends (step (start 0x00EE)) (fun t =>
      t.status == haltedOn .stackUnderflow 0x00EE && t.pc == 0x200 && t.lastInstr == none && t.cycleCount == 0) := by
  decide +kernel

/-- CF6, CF8. -/
theorem test_jump :
    ends (step (start 0x1ABC)) (fun t => t.pc == 0x0ABC) ∧ ends (step (start 0x1201)) (fun t => t.pc == 0x0201) := by
  decide +kernel

/-- CF11. -/
theorem test_call_with_15_entries :
    ends (step (deep 15 (start 0x2300))) (fun t =>
      t.pc == 0x0300 && t.stack.length == 16 && t.stack.head? == some 0x0202) := by
  decide +kernel

/-- CF12. -/
theorem test_call_with_16_entries :
    ends (step (deep 16 (start 0x2300))) (fun t =>
      t.status == haltedOn .stackOverflow 0x2300 && t.pc == 0x200 && t.stack.length == 16) := by
  decide +kernel

/-- CF13, CF14, CF15. -/
theorem test_skip_equal_byte :
    ends (step (start 0x3100)) (fun t => t.pc == 0x204) ∧
    ends (step (regs [(1, 1)] (start 0x3100))) (fun t => t.pc == 0x202) ∧
    ends (step (regs [(15, 1)] (start 0x3F01))) (fun t => t.pc == 0x204) := by
  decide +kernel

/-- CF16, CF17. -/
theorem test_skip_not_equal_byte :
    ends (step (regs [(2, 5)] (start 0x4206))) (fun t => t.pc == 0x204) ∧
    ends (step (regs [(2, 5)] (start 0x4205))) (fun t => t.pc == 0x202) := by
  decide +kernel

/-- CF18, CF19, CF20. -/
theorem test_skip_equal_registers :
    ends (step (regs [(1, 0x33), (2, 0x33)] (start 0x5120))) (fun t => t.pc == 0x204) ∧
    ends (step (regs [(1, 0x33), (2, 0x34)] (start 0x5120))) (fun t => t.pc == 0x202) ∧
    ends (step (regs [(4, 0x99)] (start 0x5440))) (fun t => t.pc == 0x204) := by
  decide +kernel

/-- CF21, CF22, CF23. -/
theorem test_skip_not_equal_registers :
    ends (step (regs [(1, 0x33), (2, 0x34)] (start 0x9120))) (fun t => t.pc == 0x204) ∧
    ends (step (regs [(1, 0x33), (2, 0x33)] (start 0x9120))) (fun t => t.pc == 0x202) ∧
    ends (step (regs [(4, 0x99)] (start 0x9440))) (fun t => t.pc == 0x202) := by
  decide +kernel

/-- CF25, CF26: the sum passes 0xFFF, and the offset register is `V[0]`. -/
theorem test_jump_v0 :
    ends (step (regs [(0, 0xFF)] (start 0xBFFF))) (fun t => t.pc == 0x10FE) ∧
    ends (step (regs [(0, 1), (3, 0x80)] (start 0xB300))) (fun t => t.pc == 0x0301) := by
  decide +kernel

/-! ## Loads and ALU -/

/-- LA2. -/
theorem test_load_byte_into_vf : ends (step (start 0x6FAB)) (fun t => t.getV 15 == 0xAB && t.pc == 0x202) := by
  decide +kernel

/-- LA3, LA4. -/
theorem test_add_byte_sets_no_flag :
    ends (step (regs [(1, 5), (15, 7)] (start 0x71FF))) (fun t => t.getV 1 == 4 && t.getV 15 == 7) ∧
    ends (step (regs [(1, 0xFF)] (start 0x7101))) (fun t => t.getV 1 == 0 && t.getV 15 == 0) := by
  decide +kernel

/-- LA7, LA8. -/
theorem test_copy_sets_no_flag :
    ends (step (regs [(1, 0x99), (15, 1)] (start 0x8F10))) (fun t => t.getV 15 == 0x99) ∧
    ends (step (regs [(15, 0x44)] (start 0x81F0))) (fun t => t.getV 1 == 0x44 && t.getV 15 == 0x44) := by
  decide +kernel

/-- LA9, LA10, LA11. -/
theorem test_or :
    ends (step (regs [(1, 0xF0), (2, 0x0F), (15, 1)] (start 0x8121))) (fun t => t.getV 1 == 0xFF && t.getV 15 == 0) ∧
    ends (step (regs [(15, 0xF0), (1, 0x0F)] (start 0x8F11))) (fun t => t.getV 15 == 0) ∧
    ends (step (regs [(0, 0x10), (15, 1)] (start 0x80F1))) (fun t => t.getV 0 == 0x11 && t.getV 15 == 0) := by
  decide +kernel

/-- LA12, LA13. -/
theorem test_and :
    ends (step (regs [(1, 0xF0), (2, 0x3C)] (start 0x8122))) (fun t => t.getV 1 == 0x30 && t.getV 15 == 0) ∧
    ends (step (regs [(0, 0xFF), (15, 1)] (start 0x80F2))) (fun t => t.getV 0 == 1 && t.getV 15 == 0) := by
  decide +kernel

/-- LA14, LA15. -/
theorem test_xor :
    ends (step (regs [(1, 0xFF), (2, 0x0F)] (start 0x8123))) (fun t => t.getV 1 == 0xF0 && t.getV 15 == 0) ∧
    ends (step (regs [(3, 0xAB), (15, 1)] (start 0x8333))) (fun t => t.getV 3 == 0 && t.getV 15 == 0) := by
  decide +kernel

/-- LA16, LA17, LA18: the source's own example, and both sides of the carry. -/
theorem test_add_registers :
    ends (step (regs [(0, 0xFF), (1, 2)] (start 0x8014))) (fun t => t.getV 0 == 1 && t.getV 15 == 1) ∧
    ends (step (regs [(0, 0x80), (1, 0x7F)] (start 0x8014))) (fun t => t.getV 0 == 0xFF && t.getV 15 == 0) ∧
    ends (step (regs [(0, 0x80), (1, 0x80)] (start 0x8014))) (fun t => t.getV 0 == 0 && t.getV 15 == 1) := by
  decide +kernel

/-- LA21, LA22: VF as destination and as source. -/
theorem test_add_with_vf :
    ends (step (regs [(15, 0x10), (1, 2)] (start 0x8F14))) (fun t => t.getV 15 == 0) ∧
    ends (step (regs [(0, 0xFF), (15, 1)] (start 0x80F4))) (fun t => t.getV 0 == 0 && t.getV 15 == 1) := by
  decide +kernel

/-- LA24, LA26, LA28. -/
theorem test_sub :
    ends (step (regs [(0, 5), (1, 0x0A)] (start 0x8015))) (fun t => t.getV 0 == 0xFB && t.getV 15 == 0) ∧
    ends (step (regs [(0, 9), (1, 9)] (start 0x8015))) (fun t => t.getV 0 == 0 && t.getV 15 == 1) ∧
    ends (step (regs [(15, 5), (1, 0x0A)] (start 0x8F15))) (fun t => t.getV 15 == 0) := by
  decide +kernel

/-- LA30, LA31, LA34. -/
theorem test_shr :
    ends (step (regs [(1, 0x81)] (start 0x8016))) (fun t => t.getV 0 == 0x40 && t.getV 15 == 1 && t.getV 1 == 0x81) ∧
    ends (step (regs [(0, 0xFF), (1, 4)] (start 0x8016))) (fun t => t.getV 0 == 2 && t.getV 15 == 0) ∧
    ends (step (regs [(1, 6)] (start 0x8F16))) (fun t => t.getV 15 == 0) := by
  decide +kernel

/-- LA36, LA37, LA39. -/
theorem test_subn :
    ends (step (regs [(0, 5), (1, 0x0A)] (start 0x8017))) (fun t => t.getV 0 == 5 && t.getV 15 == 1) ∧
    ends (step (regs [(0, 0x0A), (1, 5)] (start 0x8017))) (fun t => t.getV 0 == 0xFB && t.getV 15 == 0) ∧
    ends (step (regs [(15, 5), (1, 0x0A)] (start 0x8F17))) (fun t => t.getV 15 == 1) := by
  decide +kernel

/-- LA40, LA42, LA44. -/
theorem test_shl :
    ends (step (regs [(1, 0x81)] (start 0x801E))) (fun t => t.getV 0 == 2 && t.getV 15 == 1) ∧
    ends (step (regs [(1, 0xC0)] (start 0x8F1E))) (fun t => t.getV 15 == 1) ∧
    ends (step (regs [(1, 0x40)] (start 0x801E))) (fun t => t.getV 0 == 0x80 && t.getV 15 == 0) := by
  decide +kernel

/-- R191: one draw, `pc` moves, no flag; the byte is free (its masking is a statement). -/
theorem test_rnd_draws_once :
    ends (step (regs [(15, 9)] (start 0xC300))) (fun t => t.randDraws == 1 && t.pc == 0x202 && t.getV 15 == 9) := by
  decide +kernel

/-! ## Index register and memory -/

/-- IX2. -/
theorem test_load_index : ends (step (start 0xAFFF)) (fun t => t.i == 0x0FFF && t.pc == 0x202) := by decide +kernel

/-- IX4, IX5: the wrap at 65536, none at 4096, no flag. -/
theorem test_add_index :
    ends (step ((regs [(1, 1)] (start 0xF11E)).setI 0xFFFF)) (fun t => t.i == 0) ∧
    ends (step ((regs [(1, 1)] (start 0xF11E)).setI 0x0FFF)) (fun t => t.i == 0x1000 && t.getV 15 == 0) := by
  decide +kernel

/-- IX7b, IX6: the last digit, and the first value that is none. -/
theorem test_font_digit :
    ends (step (regs [(0, 0x0F)] (start 0xF029))) (fun t => t.i == 0x004B && t.pc == 0x202) ∧
    ends (step ((regs [(0, 0x10)] (start 0xF029)).setI 0x123)) (fun t =>
      t.status == haltedOn (.fontDigitOutOfRange 0x10) 0xF029 && t.i == 0x123 && t.pc == 0x200) := by
  decide +kernel

/-- IX8c: the last base that works. -/
theorem test_bcd_last_base :
    ends (step ((regs [(0, 7)] (bytes 0xFFD [0xFF, 0xFF, 0xFF] (start 0xF033))).setI 0xFFD)) (fun t =>
      t.mem.readBytes 0xFFD 3 == [0, 0, 7] && t.i == 0xFFD && t.pc == 0x202) := by
  decide +kernel

/-- IX9, IX9b: nothing written, and the first invalid address. -/
theorem test_bcd_beyond :
    ends (step ((regs [(0, 7)] (start 0xF033)).setI 0xFFE)) (fun t =>
      t.status == haltedOn (.addressOutOfRange 0x1000) 0xF033 && t.mem.readBytes 0xFFE 2 == [0, 0]) ∧
    ends (step ((regs [(0, 7)] (start 0xF033)).setI 0x1234)) (fun t =>
      t.status == haltedOn (.addressOutOfRange 0x1234) 0xF033) := by
  decide +kernel

/-- IX10c, IX10e. -/
theorem test_store_registers :
    ends (step ((regs [(0, 0xAA)] (start 0xF055)).setI 0xFFF)) (fun t => t.mem.read 0xFFF == 0xAA && t.i == 0x1000) ∧
    ends (step ((regs [(0, 0x20), (1, 5)] (start 0xF155)).setI 0x300)) (fun t =>
      t.mem.readBytes 0x300 3 == [0x20, 5, 0] && t.i == 0x0302) := by
  decide +kernel

/-- IX11. -/
theorem test_store_registers_beyond :
    ends (step ((regs [(0, 0xAA), (1, 0xBB)] (start 0xF155)).setI 0xFFF)) (fun t =>
      t.status == haltedOn (.addressOutOfRange 0x1000) 0xF155 && t.mem.read 0xFFF == 0 && t.i == 0xFFF) := by
  decide +kernel

/-- IX12b, IX12c: the font through `LD VF, [I]`; an instruction that reads itself. -/
theorem test_load_registers :
    ends (step (start 0xFF65)) (fun t =>
      t.regBytes 16 == [0xF0, 0x90, 0x90, 0x90, 0xF0, 0x20, 0x60, 0x20, 0x20, 0x70, 0xF0, 0x10, 0xF0, 0x80, 0xF0, 0xF0]
        && t.i == 0x10) ∧
    ends (step ((start 0xF265).setI 0x200)) (fun t => t.regBytes 3 == [0xF2, 0x65, 0] && t.i == 0x203) := by
  decide +kernel

/-- IX13. -/
theorem test_load_registers_beyond :
    ends (step ((regs [(0, 7), (1, 8)] (start 0xF165)).setI 0xFFF)) (fun t =>
      t.status == haltedOn (.addressOutOfRange 0x1000) 0xF165 && t.regBytes 2 == [7, 8] && t.i == 0xFFF) := by
  decide +kernel

/-! ## Display -/

/-- DR1. -/
theorem test_clear_screen :
    ends (step ((regs [(15, 1)] (start 0x00E0)).setDisp allLit)) (fun t =>
      t.disp == Display.blank && t.getV 15 == 1 && t.displayOut == []) := by
  decide +kernel

/-- DR2, DR3, DR5: collision; a wrapped origin with clipping on the right; a clipped pixel does not collide. -/
theorem test_draw_clips_and_collides :
    ends (step ((bytes 0x300 [0xC0] (start 0xD011)).setI 0x300 |>.setDisp (lit [0]))) (fun t =>
      t.disp == lit [1] && t.getV 15 == 1 && t.displayOut == [lit [1]]) ∧
    ends (step ((regs [(0, 0x7E), (1, 0x25)] (bytes 0x300 [0xFF] (start 0xD011))).setI 0x300)) (fun t =>
      t.disp == lit [382, 383] && t.getV 15 == 0) ∧
    ends (step ((regs [(0, 58), (1, 31)] (bytes 0x300 [0x03] (start 0xD011))).setI 0x300 |>.setDisp (lit [2047])))
      (fun t => t.disp == lit [2047] && t.getV 15 == 0) := by
  decide +kernel

/-- DR6, DR8c, DR9: clipping below; a row that would be clipped is still read; VF as the column. -/
theorem test_draw_rows :
    ends (step ((regs [(1, 30)] (bytes 0x300 [0x80, 0x40, 0x20, 0x10] (start 0xD014))).setI 0x300)) (fun t =>
      t.disp == lit [1920, 1985] && t.getV 15 == 0) ∧
    ends (step ((regs [(1, 31)] (start 0xD012)).setI 0xFFF)) (fun t =>
      t.status == haltedOn (.addressOutOfRange 0x1000) 0xD012 && t.displayOut == []) ∧
    ends (step ((regs [(15, 4), (1, 2)] (bytes 0x300 [0x80] (start 0xDF11))).setI 0x300)) (fun t =>
      t.disp == lit [132] && t.getV 15 == 0) := by
  decide +kernel

/-! ## Keypad, timers, sequencer -/

/-- KT2, KT3, KT5. -/
theorem test_skip_if_pressed :
    ends (step (regs [(3, 7)] (start 0xE39E))) (fun t => t.pc == 0x202) ∧
    ends (step (events [[.keyDown 7]] (regs [(3, 7)] (start 0xE39E)))) (fun t => t.pc == 0x204 && t.getKey 7) ∧
    ends (step (regs [(3, 0x10)] (start 0xE39E))) (fun t =>
      t.status == haltedOn (.keyIndexOutOfRange 0x10) 0xE39E && t.pc == 0x200) := by
  decide +kernel

/-- KT6, KT7, KT8. -/
theorem test_skip_if_not_pressed :
    ends (step (regs [(3, 7)] (start 0xE3A1))) (fun t => t.pc == 0x204) ∧
    ends (step (press 7 (regs [(3, 7)] (start 0xE3A1)))) (fun t => t.pc == 0x202) ∧
    ends (step (regs [(3, 0xFF)] (start 0xE3A1))) (fun t => t.status == haltedOn (.keyIndexOutOfRange 0xFF) 0xE3A1) := by
  decide +kernel

/-- KT9, and TM1's third cycle: the load reads the timer before this cycle's tick. -/
theorem test_load_from_timer :
    ends (step ((start 0xF207).setDT 6)) (fun t => t.getV 2 == 6) ∧
    ends (step ({ (start 0xF107).setDT 4 with cyclesPerTick := 1 })) (fun t =>
      t.getV 1 == 4 && t.dt == 3 && t.cycleCount == 0) := by
  decide +kernel

/-- KW1's first cycle and KW2's second: taking the key, then resolving on its release. -/
theorem test_wait_for_key :
    ends (step (events [[.keyDown 7]] (start 0xF10A))) (fun t =>
      t.waitKey == some 7 && t.keyLatch == none && t.pc == 0x200 && t.cycleCount == 1) ∧
    ends (step ((start 0xF10A).setWaitKey (some 7))) (fun t =>
      t.getV 1 == 7 && t.waitKey == none && t.pc == 0x202) := by
  decide +kernel

/-- KW5's second cycle and KW6's second: another key, and a release with a re-press, do not resolve. -/
theorem test_wait_goes_on :
    ends (step (events [[.keyDown 3]] (press 7 ((start 0xF10A).setWaitKey (some 7))))) (fun t =>
      t.waitKey == some 7 && t.keyLatch == none && t.pc == 0x200) ∧
    ends (step (events [[.keyUp 7, .keyDown 7]] (press 7 ((start 0xF10A).setWaitKey (some 7))))) (fun t =>
      t.waitKey == some 7 && t.pc == 0x200) := by
  decide +kernel

/-- KT10, and TM1's second cycle: the timer is written, then ticked. -/
theorem test_load_delay_timer :
    ends (step (regs [(0, 10)] (start 0xF015))) (fun t => t.dt == 10 && t.pc == 0x202) ∧
    ends (step ({ regs [(0, 5)] (start 0xF015) with cyclesPerTick := 1 })) (fun t => t.dt == 4) ∧
    ends (step ({ start 0xF015 with cyclesPerTick := 1 })) (fun t => t.dt == 0) := by
  decide +kernel

/-- KT11, KT12. -/
theorem test_load_sound_timer :
    ends (step (regs [(4, 0x1E)] (start 0xF418))) (fun t => t.st == 0x1E && t.tone) ∧
    ends (step ((start 0xF418).setST 5)) (fun t => t.st == 0 && !t.tone) := by
  decide +kernel

/-- SQ4, SQ5: a quit comes before the fetch; events before it count, events after it are dropped. -/
theorem test_quit :
    ends (step (events [[.keyDown 3, .quit, .keyDown 4]] (start 0x00EE))) (fun t =>
      t.status == .halted ⟨.quit, some 0x200, none⟩ && t.getKey 3 && !t.getKey 4 && t.keyLatch == some 3) := by
  decide +kernel

/-- SQ1, SQ2, SQ3: the last fetch that works, and the two that fault. -/
theorem test_fetch_at_the_top :
    ends (step ((start 0).setPc 0xFFE)) (fun t => t.pc == 0x1000 && t.status == .running) ∧
    ends (step ((start 0).setPc 0xFFF)) (fun t =>
      t.status == .halted ⟨.addressOutOfRange 0x1000, some 0xFFF, none⟩) ∧
    ends (step ((start 0).setPc 0x10FE)) (fun t =>
      t.status == .halted ⟨.addressOutOfRange 0x10FE, some 0x10FE, none⟩) := by
  decide +kernel

/-- TM5: the formula of the tick. -/
theorem test_cycles_per_tick :
    cyclesPerTickOf (1 / 500) = some 9 ∧ cyclesPerTickOf (1 / 60) = some 1 ∧ cyclesPerTickOf (1 / 61) = some 2 ∧
    cyclesPerTickOf (1 / 121) = some 3 ∧ cyclesPerTickOf 1 = some 1 ∧ cyclesPerTickOf 0 = none := by
  decide +kernel

/-- The default font, as the host passes it. -/
def font : Vector Byte Config.fontLength := Vector.ofFn fun k => Memory.unlisted k

/-- RS4: a one-byte ROM. -/
theorem test_reset_with_a_short_rom :
    (State.create [0x12] font (1 / 60)).fetchWord = 0x1200 ∧ (State.create [0x12] font (1 / 60)).mem = [(0x200, 0x12)] := by
  decide +kernel

/-! ## Witnesses: states and operands that meet the statements' hypotheses -/

/-- DecodeOfEncodeIsTheInstruction, InstructionBytesDecodeToTheInstruction. -/
theorem test_witness_encoding :
    (Instr.nop 0x5123).WellFormed ∧ (Instr.drwVxVyN 15 15 15).WellFormed ∧ (Instr.cls).WellFormed ∧
    ([] : List Byte).length < 2 ∧ [0x12#8].length < 2 := by
  decide +kernel

/-- DecodeAgreesWithTheOpcodeMap, NopWordsAreTheUnrecognizedOnes, NopOnlyAdvances: a word of a row, and one of none. -/
theorem test_witness_opcode_map :
    (OpcodeRow.mk .seVxVy 0x5000 0xF00F) ∈ opcodeRows ∧ (OpcodeRow.mk .seVxVy 0x5000 0xF00F).matches 0x5120 = true ∧
    recognized 0x5123 = false ∧ recognized 0x0000 = false ∧ recognized 0xF0FF = false := by
  decide +kernel

/-- StepRunsTheDecodedInstruction: the last address that can be fetched from, with events. -/
theorem test_witness_step :
    let s := events [[.keyDown 7]] ((bytes 0xFFE [0xA1, 0x23] (start 0)).setPc 0xFFE)
    s.status = .running ∧ .quit ∉ s.cycleEvents ∧ s.pc.toNat = 0xFFE ∧
    decode (wordOfBytes (s.mem.read s.pc.toNat) (s.mem.read (s.pc.toNat + 1))) = .ldIAddr 0x123 ∧
    ends (exec (.ldIAddr 0x123) s.applyInput) (fun u => u.i == 0x123) := by
  decide +kernel

/-- EndOfCycleRecordsPublishesCountsAndClears and TickDecrementsBothTimersDownToZero: a tick due with one timer at 0 and
one above, and a cycle before it. -/
theorem test_witness_tick :
    let s := (start 0).setDT 1
    (s.cycleCount + 1 ≠ s.cyclesPerTick ∧ (s.endCycle .cls).cycleCount = 1 ∧ (s.endCycle .cls).dt = 1) ∧
    (let u := { s with cycleCount := 999 }
     u.cycleCount + 1 = u.cyclesPerTick ∧ 0 < u.dt.toNat ∧ u.st.toNat = 0 ∧ u.countCycle.dt = 0 ∧
     u.countCycle.st = 0 ∧ (u.setST 1).countCycle.st = 0 ∧ (u.setDT 0).countCycle.dt = 0) ∧
    (s.endCycle .drwVxVyN).displayOut = [Display.blank] := by
  decide +kernel

/-- EveryRunningStepAnswersANextState: a running state, and a halted one, which has no step. -/
theorem test_witness_running_and_halted :
    State.reset.status = .running ∧
    (State.haltedAtReset .invalidConfig).status = .halted ⟨.invalidConfig, none, none⟩ ∧
    step (State.haltedAtReset .invalidConfig) = .fault (.halted ⟨.invalidConfig, none, none⟩) :=
  ⟨rfl, rfl, rfl⟩

/-- QuitHaltsBeforeTheFetch. -/
theorem test_witness_quit :
    let s := events [[.keyDown 3, .quit, .keyDown 4], [.keyUp 3]] (start 0x00EE)
    s.status = .running ∧ .quit ∉ [InputEvent.keyDown 3] ∧
    s.input = ([InputEvent.keyDown 3] ++ .quit :: [.keyDown 4]) :: [[.keyUp 3]] := by
  decide +kernel

/-- FetchAboveTheTopHalts: the lowest and the highest such `pc`. -/
theorem test_witness_fetch_above :
    (start 0).status = .running ∧ .quit ∉ (start 0).cycleEvents ∧ 0xFFE < ((start 0).setPc 0xFFF).pc.toNat ∧
    0xFFE < ((start 0).setPc 0xFFFF).pc.toNat ∧
    ends (step ((start 0).setPc 0xFFFF)) (fun t =>
      t.status == .halted ⟨.addressOutOfRange 0xFFFF, some 0xFFFF, none⟩) := by
  decide +kernel

/-- OnlyADrawCyclePublishes and ObserversDoNotInfluenceTheRun: a cycle that draws nothing but publishes, one that does
not publish, one that halts at its draw. -/
theorem test_witness_publish :
    ends (step ((start 0xD010).setI 0xFFFF)) (fun t =>
      t.status == .running && (decode (start 0xD010).fetchWord).symbol == .drwVxVyN &&
      t.displayOut == [Display.blank] && t.getV 15 == 0) ∧
    ends (step (start 0)) (fun t => t.displayOut == []) ∧
    ends (step ((start 0xD011).setI 0xFFFF)) (fun t => t.isHalted && t.displayOut == []) := by
  decide +kernel

/-- TickCountFollowsTheCycleNumber: five cycles with three to the tick. -/
theorem test_witness_tick_count :
    let s := { start 0 with cyclesPerTick := 3 }
    s.cycleCount < s.cyclesPerTick ∧
    ends (Sys2Proof.core.run 5 s) (fun t => t.status == .running && t.cycleCount == 2) := by
  decide +kernel

/-- LatchHoldsTheLastKeyDown (KW4): two key-downs and a key-up. -/
theorem test_witness_latch :
    let es : List InputEvent := [.keyDown 3, .keyDown 7, .keyUp 3]
    .quit ∉ es ∧ ((start 0).applyEvents es).keyLatch = some 7 ∧ ((start 0).applyEvents es).getKey 3 = false ∧
    ((start 0).applyEvents es).getKey 7 = true := by
  decide +kernel

/-- BridgeMessagesBecomeEvents: a code that is no key and not the pause code. -/
theorem test_witness_bridge : 15 < Config.keyPause + 1 ∧ Config.keyPause + 1 ≠ Config.keyPause := by
  unfold Config.keyPause
  omega

/-- RomLoadsVerbatimOrIsRejected, CreatedMachineIsTheResetStateWithItsImage, ConfigurationIsCheckedBeforeTheRom: RS2, RS3
and RS5. -/
theorem test_witness_reset :
    (0 : Rat) < 1 / 500 ∧ (List.replicate 3584 0xAB#8).length ≤ 3584 ∧ 3584 < (List.replicate 3585 0xAB#8).length ∧
    (State.create (List.replicate 3584 0xAB#8) font (1 / 500)).status = .running ∧
    (State.create (List.replicate 3585 0xAB#8) font (1 / 500)).status = .halted ⟨.romTooLarge 3585, none, none⟩ ∧
    (State.create (List.replicate 3585 0xAB#8) font 0).status = .halted ⟨.invalidConfig, none, none⟩ ∧
    (State.create [] font (-1 / 500)).status = .halted ⟨.invalidConfig, none, none⟩ := by
  decide +kernel

/-- EveryStepKeepsTheInvariant: a state in the middle of a wait, with a full stack and a listed byte. -/
theorem test_witness_inv :
    (deep 16 ((start 0xF10A).setWaitKey (some 7))).Inv ∧
    ends (step (deep 16 ((start 0xF10A).setWaitKey (some 7)))) (fun t => t.getV 1 == 7) :=
  ⟨⟨by decide +kernel, by decide +kernel, by decide +kernel, fun _ => by decide +kernel,
    fun _ => ⟨by decide +kernel, 1, by decide +kernel⟩⟩, by decide +kernel⟩

/-- EveryStepKeepsTheProgramCounterBound: at the bound itself. -/
theorem test_witness_pc_bound :
    (((start 0).setPc 0x10FE).setStack [0x1000]).PcBound ∧
    ends (step (((start 0).setPc 0x10FE).setStack [0x1000])) (fun t => t.isHalted) :=
  ⟨⟨by decide +kernel, fun e he => by rw [List.mem_singleton.mp he]; decide +kernel⟩, by decide +kernel⟩

/-- CallPushesTheReturnAddress, RetPopsIntoThePc: 15 and 16 entries; a return from the top of memory; an empty stack. -/
theorem test_witness_stack :
    (deep 15 (start 0)).stack.length < 16 ∧ 16 ≤ (deep 16 (start 0)).stack.length ∧ (start 0).stack = [] ∧
    ((start 0).setStack [0x1000]).stack = 0x1000 :: [] ∧
    ends (exec (.callAddr 0) ((start 0).setPc 0xFFFF)) (fun t => t.stack == [0x0001] && t.pc == 0) := by
  decide +kernel

/-- SkipsTestRegistersAndMoveThePcBy4Or2: an equal and an unequal pair, of register and byte and of registers. -/
theorem test_witness_skips :
    let s := regs [(1, 0x33), (2, 0x33)] (start 0)
    s.getV 1 = 0x33 ∧ s.getV 1 ≠ 0x34 ∧ s.getV 1 = s.getV 2 ∧ s.getV 1 ≠ s.getV 3 := by
  decide +kernel

/-- ProgramCounterAdvancesUniformly, EachSpecialStateHasItsOwnWriters, OnlyFlagInstructionsWriteVFAsAFlag,
OnlyTwoInstructionsWriteMemory, OnlyPollingInstructionsSeeTheKeypad: `LD V3, 9` meets all of their side conditions; a
taken skip and a wait show the other two clauses of the first. -/
theorem test_witness_frames :
    ends (exec (.ldVxByte 3 9) (start 0)) (fun t => t.pc == 0x202 && t.status == .running) ∧
    ends (exec (.skpVx 0) (press 0 (start 0))) (fun t => t.pc == 0x204) ∧
    ends (exec (.ldVxK 0) (start 0)) (fun t => t.pc == 0x200) ∧
    Symbol.ldVxByte ∉ [.jpAddr, .callAddr, .ret, .jpV0Addr] ∧ Symbol.ldVxByte ∉ flagWriters ∧
    destIsVF (.ldVxByte 3 9) = false ∧ Symbol.ldVxByte ∉ [.ldBVx, .ldMemIVx] ∧
    Symbol.ldVxByte ∉ [.skpVx, .sknpVx, .ldVxK] ∧ Symbol.ldVxByte ∉ [.ldIAddr, .addIVx, .ldFVx, .ldMemIVx, .ldVxMemI] ∧
    Symbol.ldVxByte ∉ [.callAddr, .ret] ∧ Symbol.ldVxByte ∉ [.cls, .drwVxVyN] ∧ (start 0).mem.wf := by
  decide +kernel

/-- RandomByteIsMasked: a mask with a bit of 0. -/
theorem test_witness_rnd : (0x0F#8).getLsbD 4 = false ∧ (0xFE#8).getLsbD 0 = false := by decide +kernel

/-- FontAddressOrHalt, KeySkipsTestTheLevel: 15 and 16. -/
theorem test_witness_nibble_operands :
    ((regs [(0, 15)] (start 0)).getV 0).toNat ≤ 15 ∧ 15 < ((regs [(0, 16)] (start 0)).getV 0).toNat ∧
    ((regs [(0, 15)] (start 0)).getV 0).toNat = (15 : Nibble).toNat ∧
    ends (exec (.sknpVx 0) (press 15 (regs [(0, 15)] (start 0)))) (fun t => t.pc == 0x202) := by
  decide +kernel

/-- StoreBcdWritesThreeDigits, StoreRegistersWritesTheRange, LoadRegistersReadsTheRange: the last base of each that
works and the first that does not. -/
theorem test_witness_ranges :
    ((start 0).setI 0xFFD).i.toNat ≤ 0xFFD ∧ 0xFFD < ((start 0).setI 0xFFE).i.toNat ∧
    ((start 0).setI 0xFF0).i.toNat + (15 : Nibble).toNat ≤ 0xFFF ∧
    0xFFF < ((start 0).setI 0xFF1).i.toNat + (15 : Nibble).toNat ∧
    ((start 0).setI 0xFFF).i.toNat + (0 : Nibble).toNat ≤ 0xFFF ∧
    0xFFF < ((start 0).setI 0x1000).i.toNat + (0 : Nibble).toNat ∧
    ends (exec (.ldMemIVx 15) ((start 0).setI 0xFF0)) (fun t => t.i == 0x1000) ∧
    ends (exec (.ldMemIVx 15) ((start 0).setI 0xFF1)) (fun t => t.isHalted) ∧
    ends (exec (.ldVxMemI 0) ((start 0).setI 0xFFF)) (fun t => t.i == 0x1000) ∧
    ends (exec (.ldVxMemI 0) ((start 0).setI 0x1000)) (fun t => t.isHalted) := by
  decide +kernel

/-- MemoriesThatReadAlikeAreEqual: a memory with two cells, in its form. -/
theorem test_witness_memory_form : Memory.wf [(0x000, 0x00), (0xFFF, 0x01)] := by decide +kernel

/-- AStoreIsSeenByTheNextFetch: `LD [I], V1` with `I` at the next instruction. -/
theorem test_witness_store_then_fetch :
    let s := (regs [(0, 0x12), (1, 0x34)] (start 0xF155)).setI 0x202
    ends (exec (.ldMemIVx 1) s) (fun t =>
      t.status == .running && t.pc.toNat == s.i.toNat + (0 : Nibble).toNat && t.fetchWord == 0x1234) ∧
    (1 : Nibble).toNat = (0 : Nibble).toNat + 1 ∧ (1 : Nibble).toNat ≤ (1 : Nibble).toNat := by
  decide +kernel

/-- A state in which `DRW V0, V1, 1` at `I = 0xFFF`, the last address, draws two pixels, one of them on a lit cell. -/
def drawing : State := ((bytes 0xFFF [0xC0] (start 0)).setI 0xFFF).setDisp (lit [0])

/-- DrawXorsTheSpriteAndReportsCollision, DrawingTwiceRestoresTheDisplay (DR2): a sprite at the last address, a pixel that
collides (column 0), one that does not (column 1), a cell no pixel reaches; the case of no rows; the first base that
faults. -/
theorem test_witness_draw :
    drawing.spriteAt 0 1 1 0 0 0 0 ∧ drawing.spriteBit 0 0 = true ∧ drawing.disp.cell (64 * 0 + 0) = true ∧
    drawing.spriteAt 0 1 1 0 1 1 0 ∧ drawing.spriteBit 0 1 = true ∧ drawing.disp.cell (64 * 0 + 1) = false ∧
    (drawing.i.toNat + (1 : Nibble).toNat - 1 ≤ 0xFFF) ∧ (0 : Nibble).toNat = 0 ∧
    (0 < (2 : Nibble).toNat ∧ 0xFFF < drawing.i.toNat + (2 : Nibble).toNat - 1) ∧ (0 : Nibble) ≠ regVF ∧
    ends (exec (.drwVxVyN 0 1 1) drawing) (fun t => t.disp == lit [1] && t.getV 15 == 1) ∧
    ends (exec (.drwVxVyN 0 1 2) drawing) (fun t => t.isHalted) := by
  refine ⟨⟨?_, ?_, ?_, ?_, ?_, ?_⟩, ?_, ?_, ⟨?_, ?_, ?_, ?_, ?_, ?_⟩, ?_⟩ <;> decide +kernel

/-- DrawXorsTheSpriteAndReportsCollision: a draw without a collision, on a blank display. -/
theorem test_witness_draw_without_collision :
    (∀ r c col row, drawing.spriteAt 0 1 1 r c col row → (drawing.setDisp Display.blank).disp.cell (64 * row + col) = false) ∧
    ends (exec (.drwVxVyN 0 1 1) (drawing.setDisp Display.blank)) (fun t => t.disp == lit [0, 1] && t.getV 15 == 0) := by
  refine ⟨fun r c col row _ => ?_, by decide +kernel⟩
  change ((Vector.replicate 32 0#64)[_]?.getD 0#64).getLsbD _ = false
  rw [Vector.getElem?_replicate]
  split <;> simp

/-- WaitForKeyTakesThenResolves: the four cases. -/
theorem test_witness_wait :
    let s := start 0xF10A
    (s.waitKey = none ∧ s.keyLatch = none) ∧ (s.setKeyLatch (some 7)).keyLatch = some 7 ∧
    ((press 7 (s.setWaitKey (some 7))).waitKey = some 7 ∧ (press 7 (s.setWaitKey (some 7))).getKey 7 = true) ∧
    ((s.setWaitKey (some 7)).waitKey = some 7 ∧ (s.setWaitKey (some 7)).getKey 7 = false) := by
  decide +kernel

/-- FaultsArePrecise: a running state from which `RET` halts. -/
theorem test_witness_fault :
    (start 0x00EE).status = .running ∧ canRaise .ret .stackUnderflow = true ∧
    ends (exec .ret (start 0x00EE)) (fun t => t.status == haltedOn .stackUnderflow 0x00EE) := by
  decide +kernel

/-- JumpsCompleteAndTheirTargetMeetsTheNextFetch: a running machine without a quit; the last target that is fetched and
the first that is not, of each jump (CF25, CF27, R162). -/
theorem test_witness_jump_targets :
    (start 0).status = .running ∧ .quit ∉ (start 0).cycleEvents ∧
    ends (exec (.jpAddr 0xFFE) (start 0)) (fun t => t.pc == 0xFFE && ends (step (t.endCycle .jpAddr)) (fun u => !u.isHalted)) ∧
    ends (exec (.jpAddr 0xFFF) (start 0)) (fun t => ends (step (t.endCycle .jpAddr)) (fun u =>
      u.status == .halted ⟨.addressOutOfRange 0x1000, some 0xFFF, none⟩)) ∧
    ends (exec (.jpV0Addr 0xFFD) (regs [(0, 1)] (start 0))) (fun t =>
      t.pc == 0xFFE && ends (step (t.endCycle .jpV0Addr)) (fun u => !u.isHalted)) ∧
    ends (exec (.jpV0Addr 0xFFF) (regs [(0, 0xFF)] (start 0))) (fun t => ends (step (t.endCycle .jpV0Addr)) (fun u =>
      u.status == .halted ⟨.addressOutOfRange 0x10FE, some 0x10FE, none⟩)) := by
  decide +kernel

/-- IndexMayPassTheTopUntilItIsUsed: the first sum above 0xFFF (IX5), and a draw of one row from there. -/
theorem test_witness_index_past_the_top :
    let s := (regs [(1, 1)] (start 0)).setI 0xFFF
    ends (exec (.addIVx 1) s) (fun t => decide (0xFFF < t.i.toNat) &&
      ends (exec (.ldBVx 0) t) State.isHalted && ends (exec (.drwVxVyN 0 0 1) t) State.isHalted &&
      ends (exec (.drwVxVyN 0 0 0) t) (fun u => !u.isHalted)) ∧
    0 < (1 : Nibble).toNat := by
  decide +kernel

end Sys2Proof.Tests
end

/-! PROOFS. The index register above 0xFFF: the instructions that set it complete, those that use it as an address halt
(R64, R200, R201, R306). One rule for each memory instruction, by the outcome of its range check. -/

namespace Sys2Proof.Machine

/-! ## Halts and the range check -/

/-- A raised fault is a halt that keeps everything but the status (R130, R273). -/
theorem State.raise_haltsWith (s : State) (i : Instr) (c : Cause) : ∃ u, s.raise i c = .next u ∧ s.HaltsWith u c :=
  ⟨_, rfl, ⟨c, some s.pc, some (encode i)⟩, rfl, rfl⟩

/-- An access of at least one byte from a base above 0xFFF fails at the base itself. -/
theorem firstInvalid_of_base_above {base len : Nat} (hlen : 0 < len) (hbase : 0xFFF < base) :
    firstInvalid base len = some base := by
  rw [firstInvalid_some hlen (by simp only [Config.maxAddress]; omega), max_eq_left hbase]

section
variable {s : State} {a : Nat} {x y n : Nibble}

/-! ## The four users of `I` as an address, by their range check -/

theorem exec_ldBVx_of_out_of_range (h : firstInvalid s.i.toNat 3 = some a) :
    exec (.ldBVx x) s = s.raise (.ldBVx x) (.addressOutOfRange a) := by
  simp only [exec, execLdBVx, State.base, h]

theorem exec_ldMemIVx_of_out_of_range (h : firstInvalid s.i.toNat (x.toNat + 1) = some a) :
    exec (.ldMemIVx x) s = s.raise (.ldMemIVx x) (.addressOutOfRange a) := by
  simp only [exec, execLdMemIVx, State.base, h]

theorem exec_ldVxMemI_of_out_of_range (h : firstInvalid s.i.toNat (x.toNat + 1) = some a) :
    exec (.ldVxMemI x) s = s.raise (.ldVxMemI x) (.addressOutOfRange a) := by
  simp only [exec, execLdVxMemI, State.base, h]

theorem exec_drwVxVyN_of_out_of_range (h : firstInvalid s.i.toNat n.toNat = some a) :
    exec (.drwVxVyN x y n) s = s.raise (.drwVxVyN x y n) (.addressOutOfRange a) := by
  simp only [exec, execDrwVxVyN, State.base, h]

theorem exec_ldVxMemI_of_in_range (h : firstInvalid s.i.toNat (x.toNat + 1) = none) :
    exec (.ldVxMemI x) s =
      .next ((s.loadRegs s.i.toNat (x.toNat + 1)).setI (inc16 s.i (x.toNat + 1))).advance := by
  simp only [exec, execLdVxMemI, State.base, h]

theorem exec_drwVxVyN_of_in_range (h : firstInvalid s.i.toNat n.toNat = none) :
    exec (.drwVxVyN x y n) s =
      let c := drawRows (s.originCol x) (s.originRow y) (s.mem.readBytes s.i.toNat n.toNat) ⟨s.disp, false⟩
      .next ((s.setDisp c.disp).setV regVF (flagByte c.coll)).advance := by
  simp only [exec, execDrwVxVyN, State.base, h]

end

/-! ## The two instructions that set `I`, and its next use -/

theorem exec_ldIAddr (nnn : Addr12) (s : State) : exec (.ldIAddr nnn) s = .next (s.setI (immAddr nnn)).advance := rfl

theorem exec_addIVx (x : Nibble) (s : State) :
    exec (.addIVx x) s = .next (s.setI (inc16 s.i (s.getV x).toNat)).advance := rfl

/-- A byte can be loaded from every valid `I` (R205). -/
theorem exec_ldVxMemI_zero {s : State} (h : s.i.toNat ≤ 0xFFF) :
    ∃ u, exec (.ldVxMemI 0) s = .next u ∧ u.getV 0 = s.mem.read s.i.toNat ∧ u.status = s.status := by
  have hok : firstInvalid s.i.toNat ((0 : Nibble).toNat + 1) = none :=
    (firstInvalid_none_iff _ _).2 (.inr (Nat.succ_le_succ h))
  refine ⟨_, exec_ldVxMemI_of_in_range hok, ?_, by simp⟩
  simp [State.getV_loadRegs]

/-- An `I` above 0xFFF halts each of the four instructions that use it as an address, and no draw of 0 rows
(R64, R306). -/
theorem uses_of_index_past_the_top {s : State} (h : 0xFFF < s.i.toNat) (y z n : Nibble) :
    (∃ u, exec (.ldBVx y) s = .next u ∧ s.HaltsWith u (.addressOutOfRange s.i.toNat)) ∧
    (∃ u, exec (.ldMemIVx y) s = .next u ∧ s.HaltsWith u (.addressOutOfRange s.i.toNat)) ∧
    (∃ u, exec (.ldVxMemI y) s = .next u ∧ s.HaltsWith u (.addressOutOfRange s.i.toNat)) ∧
    (0 < n.toNat → ∃ u, exec (.drwVxVyN y z n) s = .next u ∧ s.HaltsWith u (.addressOutOfRange s.i.toNat)) ∧
    ∃ u, exec (.drwVxVyN y z 0) s = .next u ∧ u.status = s.status := by
  have fails {len : Nat} (hlen : 0 < len) : firstInvalid s.i.toNat len = some s.i.toNat :=
    firstInvalid_of_base_above hlen h
  have noRows : firstInvalid s.i.toNat (0 : Nibble).toNat = none := (firstInvalid_none_iff _ _).2 (.inl rfl)
  rw [exec_ldBVx_of_out_of_range (fails (by decide)), exec_ldMemIVx_of_out_of_range (fails (Nat.succ_pos _)),
    exec_ldVxMemI_of_out_of_range (fails (Nat.succ_pos _))]
  refine ⟨s.raise_haltsWith _ _, s.raise_haltsWith _ _, s.raise_haltsWith _ _, fun hn => ?_,
    ⟨_, exec_drwVxVyN_of_in_range noRows, rfl⟩⟩
  rw [exec_drwVxVyN_of_out_of_range (fails hn)]
  exact s.raise_haltsWith _ _

/-- Settles O59: the loaded address is at most 0xFFF, so the range check of the next load passes; a sum above 0xFFF fails
every range check of a non-empty access. -/
theorem indexMayPassTheTopUntilItIsUsed : Obligations.IndexMayPassTheTopUntilItIsUsed := by
  intro nnn x s
  constructor
  · have hi : (s.setI (immAddr nnn)).advance.i.toNat = nnn.toNat := immAddr_toNat nnn
    refine ⟨_, exec_ldIAddr nnn s, hi, rfl, ?_⟩
    have hvalid : nnn.toNat ≤ 0xFFF := Nat.le_of_lt_succ nnn.isLt
    obtain ⟨u, hexec, hv, hstatus⟩ := exec_ldVxMemI_zero (hi.trans_le hvalid)
    exact ⟨u, hexec, by rw [hv, hi]; rfl, hstatus⟩
  · exact ⟨_, exec_addIVx x s, inc16_toNat s.i _, rfl, rfl, uses_of_index_past_the_top⟩

end Sys2Proof.Machine

/-! PROOFS. What memory gives back: the word a fetch reads (R65), and the ROM a machine is created with (R63, R266). -/

namespace Sys2Proof.Machine

/-! ## The fetched word (R65) -/

/-- Settles O7: the two bytes give the word's number, and each field is a quotient or a remainder of it. -/
theorem fetchReadsTheBigEndianWord : Obligations.FetchReadsTheBigEndianWord := by
  intro s hi lo
  have hlo : lo < 256 := BitVec.isLt _
  have hhi : hi < 256 := BitVec.isLt _
  have hw : s.fetchWord.toNat = hi * 256 + lo := wordOfBytes_toNat _ _
  rw [fieldN0_toNat, fieldX_toNat, fieldY_toNat, fieldN_toNat, hw]
  refine ⟨rfl, ?_, ?_, ?_, ?_⟩ <;> omega

/-! ## Creating a machine (R300) -/

/-- The ROM part of the memory image (R301): byte `k` of the ROM at 0x200 + `k`, over any font. -/
theorem read_resetImage_rom (rom : List Byte) (font : Vector Byte Config.fontLength) {k : Nat} (h : k < rom.length) :
    (resetImage rom font).read (0x200 + k) = rom[k] := by
  rw [resetImage, Memory.read_writeBytes, if_pos ⟨Nat.le_add_right _ _, Nat.add_lt_add_left h _⟩,
    Nat.add_sub_cancel_left, List.getD_eq_getElem _ _ h]

section
variable {rom : List Byte} {seconds : Rat} (font : Vector Byte Config.fontLength)

/-- An accepted configuration and a ROM that fits: the reset state with its image and its period. -/
theorem create_of_fits (hs : 0 < seconds) (hrom : rom.length ≤ 3584) :
    State.create rom font seconds =
      { State.reset with mem := resetImage rom font, cyclesPerTick := (1 / (60 * seconds)).ceil.toNat } := by
  simp only [State.create, cyclesPerTickOf, if_pos hs, if_neg (Nat.not_lt.2 hrom)]

/-- An accepted configuration and a ROM that is too long: halted at reset (R266). -/
theorem create_of_too_long (hs : 0 < seconds) (hrom : 3584 < rom.length) :
    State.create rom font seconds = State.haltedAtReset (.romTooLarge rom.length) := by
  simp only [State.create, cyclesPerTickOf, if_pos hs, if_pos hrom]

end

/-- Settles O19: the length decides between the image, read back byte by byte, and the halt. -/
theorem romLoadsVerbatimOrIsRejected : Obligations.RomLoadsVerbatimOrIsRejected := by
  intro rom font seconds hs
  constructor
  · intro hrom
    rw [create_of_fits font hs hrom]
    exact ⟨rfl, fun k h => read_resetImage_rom rom font h⟩
  · intro hrom
    rw [create_of_too_long font hs hrom]
    rfl

end Sys2Proof.Machine

/-! PROOFS. The fetch of a running machine without a quit (R123), and the two jumps whose targets meet it (R162, R168,
R169). -/

namespace Sys2Proof.Machine

/-! ## The range check of the fetch -/

section
variable {s : State}

theorem State.fetchFault_eq_none (h : s.pc.toNat ≤ 0xFFE) : s.fetchFault = none :=
  (firstInvalid_none_iff _ _).2 (.inr (Nat.add_le_add_right h 2))

theorem State.fetchFault_eq_some (h : 0xFFE < s.pc.toNat) : s.fetchFault = some (max s.pc.toNat 0x1000) :=
  firstInvalid_some Nat.two_pos (Nat.add_lt_add_right h 2)

/-! ## The step by the outcome of the fetch -/

variable (hrun : s.status = .running) (hquit : .quit ∉ s.cycleEvents)
include hrun hquit

/-- Without a quit the input leaves the machine running, so the step goes on to the fetch (R122). -/
theorem State.applyInput_isHalted : s.applyInput.isHalted = false :=
  (State.isHalted_eq_false _).2 ((s.applyInput_status hquit).trans hrun)

/-- A `pc` up to 0xFFE: the cycle runs the instruction there. -/
theorem step_of_fetched (hpc : s.pc.toNat ≤ 0xFFE) :
    step s = finishCycle (decode s.fetchWord).symbol (exec (decode s.fetchWord) s.applyInput) := by
  simp [step, hrun, cycleAfterInput, State.applyInput_isHalted hrun hquit, State.fetchFault_eq_none hpc]

/-- A `pc` above 0xFFE: the cycle halts at its fetch, with no word. -/
theorem step_of_fetch_above (hpc : 0xFFE < s.pc.toNat) :
    step s = .next (s.applyInput.halt (.addressOutOfRange (max s.pc.toNat 0x1000)) none) := by
  simp [step, hrun, cycleAfterInput, State.applyInput_isHalted hrun hquit, State.fetchFault_eq_some hpc]

theorem State.fetchesOrHalts : s.FetchesOrHalts := by
  refine ⟨step_of_fetched hrun hquit, fun hpc => ⟨_, step_of_fetch_above hrun hquit hpc, s.applyInput_pc, ?_⟩⟩
  rw [State.halt_status, State.applyInput_pc]

end

/-! ## The two jumps -/

theorem exec_jpAddr (nnn : Addr12) (s : State) : exec (.jpAddr nnn) s = .next (s.setPc (immAddr nnn)) := rfl

theorem exec_jpV0Addr (nnn : Addr12) (s : State) :
    exec (.jpV0Addr nnn) s = .next (s.setPc (immAddr nnn + byteWord (s.getV 0))) := rfl

/-- The target of `JP V0, addr` (R168): at most 0x10FE, so the sum mod 65536 is the sum. -/
theorem immAddr_add_byteWord_toNat (nnn : Addr12) (b : Byte) :
    (immAddr nnn + byteWord b).toNat = nnn.toNat + b.toNat := by
  have hn := nnn.isLt
  have hb := b.isLt
  rw [BitVec.toNat_add, immAddr_toNat, byteWord_eq_toNat]
  omega

/-- A cycle that changed only the `pc` ends with the status and the coming events it began with, so the next one is
decided by its fetch. -/
theorem State.fetchesOrHalts_endCycle_setPc {s : State} (w : Word) (y : Symbol) (hrun : s.status = .running)
    (hquit : .quit ∉ s.cycleEvents) : ((s.setPc w).endCycle y).FetchesOrHalts :=
  State.fetchesOrHalts (s := (s.setPc w).endCycle y) hrun hquit

/-- Settles O58: each jump writes the `pc` alone, and no cycle of a running machine without a quit does other than fetch
or halt. -/
theorem jumpsCompleteAndTheirTargetMeetsTheNextFetch : Obligations.JumpsCompleteAndTheirTargetMeetsTheNextFetch := by
  intro nnn s
  constructor
  · exact ⟨_, exec_jpAddr nnn s, immAddr_toNat nnn, rfl, State.fetchesOrHalts_endCycle_setPc _ _⟩
  · exact ⟨_, exec_jpV0Addr nnn s, immAddr_add_byteWord_toNat nnn _, rfl, State.fetchesOrHalts_endCycle_setPc _ _⟩

end Sys2Proof.Machine

/-! PROOFS. The flag-arithmetic instructions (R183 to R190), which all end in one write-back of a result and its flag
(R145), and the store of the three decimal digits (R203). -/

namespace Sys2Proof.Machine

/-! ## Arithmetic with a flag -/

/-- The statement form of every instruction that ends in a write-back: its result `b` with what is known of `b`, and its
flag. -/
theorem exists_writesFlagged {i : Instr} {s : State} {x : Nibble} {o : AluOut} {P : Byte → Prop} {flag : Byte}
    (hexec : exec i s = .next (s.writeBack x o).advance) (hresult : P o.result) (hflag : flagByte o.flag = flag) :
    ∃ (t : State) (b : Byte), exec i s = .next t ∧ P b ∧ s.WritesFlagged t x b flag :=
  ⟨_, o.result, hexec, hresult, hflag ▸ s.writesFlagged_writeBack x o⟩

theorem flagByte_decide (p : Prop) [Decidable p] : flagByte (decide p) = if p then 1 else 0 := by
  simp only [flagByte, decide_eq_true_eq]
  rfl

/-- Settles O34: the library's bit lemma of each operation, and the constant flag. -/
theorem logicOpsClearVF : Obligations.LogicOpsClearVF := by
  intro x y s
  refine ⟨⟨rfl, ?_⟩, ⟨rfl, ?_⟩, rfl, ?_⟩
  · exact exists_writesFlagged (o := or8 _ _) rfl (fun _ _ => BitVec.getLsbD_or) rfl
  · exact exists_writesFlagged (o := and8 _ _) rfl (fun _ _ => BitVec.getLsbD_and) rfl
  · exact exists_writesFlagged (o := xor8 _ _) rfl (fun _ _ => BitVec.getLsbD_xor) rfl

/-- Settles O35: `Add8` of the two old registers, written back. -/
theorem addRegistersSetsCarry : Obligations.AddRegistersSetsCarry := by
  intro x y s
  exact ⟨rfl, exists_writesFlagged (o := add8 _ _) rfl (add8_result _ _) (flagByte_decide _)⟩

/-- Settles O36: both subtractions are `Sub8`, with the operands exchanged in `SUBN`. -/
theorem subtractionsSetNoBorrow : Obligations.SubtractionsSetNoBorrow := by
  intro x y s
  refine ⟨⟨rfl, ?_⟩, rfl, ?_⟩
  · exact exists_writesFlagged (o := sub8 (s.getV x) (s.getV y)) rfl (sub8_result _ _) (flagByte_decide _)
  · exact exists_writesFlagged (o := sub8 (s.getV y) (s.getV x)) rfl (sub8_result _ _) (flagByte_decide _)

/-- Settles O37: each shift is of the old `V[y]`, and its flag is a bit of the old `V[y]`, here as a number. -/
theorem shiftsReadVyAndSetTheBitShiftedOut : Obligations.ShiftsReadVyAndSetTheBitShiftedOut := by
  intro x y s
  refine ⟨⟨rfl, ?_⟩, rfl, ?_⟩
  · refine exists_writesFlagged (o := shr8 (s.getV y)) rfl (shr8_result _) ?_
    rw [shr8_flag, flagByte_decide]
  · refine exists_writesFlagged (o := shl8 (s.getV y)) rfl (shl8_result _) ?_
    rw [shl8_flag, flagByte_decide]

/-! ## The decimal digits -/

theorem exec_ldBVx_of_in_range {s : State} {x : Nibble} (h : firstInvalid s.i.toNat 3 = none) :
    exec (.ldBVx x) s = .next (s.setMem (s.mem.writeBytes s.i.toNat (bcd (s.getV x)))).advance := by
  simp only [exec, execLdBVx, State.base, h]

@[simp] theorem bcd_length (v : Byte) : (bcd v).length = 3 := rfl

/-- A byte of memory after the three digits were written from `a`: digit `k` at `a + k`. -/
theorem Memory.read_writeBytes_bcd (m : Memory) (a : Nat) (v : Byte) {k : Nat} (h : k < 3) :
    (m.writeBytes a (bcd v)).read (a + k) = (bcd v).getD k 0#8 := by
  rw [Memory.read_writeBytes, bcd_length, if_pos ⟨Nat.le_add_right _ _, Nat.add_lt_add_left h _⟩,
    Nat.add_sub_cancel_left]

/-- Every other byte of memory after the three digits were written from `a`. -/
theorem Memory.read_writeBytes_bcd_outside (m : Memory) {a q : Nat} (v : Byte) (h : q < a ∨ a + 2 < q) :
    (m.writeBytes a (bcd v)).read q = m.read q := by
  rw [Memory.read_writeBytes, bcd_length, if_neg (by omega)]

/-- Settles O42: the range check of three bytes passes exactly up to 0xFFD; then each digit is read back from its
address. -/
theorem storeBcdWritesThreeDigits : Obligations.StoreBcdWritesThreeDigits := by
  intro x s
  refine ⟨rfl, fun hin => ?_, fun hout => ?_⟩
  · have hok : firstInvalid s.i.toNat 3 = none := (firstInvalid_none_iff _ _).2 (.inr (Nat.add_le_add_right hin 3))
    have digit {k : Nat} (hk : k < 3) := congrArg BitVec.toNat
      (Memory.read_writeBytes_bcd s.mem s.i.toNat (s.getV x) hk)
    refine ⟨_, exec_ldBVx_of_in_range hok, ?_, ?_, ?_, fun a ha => ?_, rfl⟩
    · exact (digit (k := 0) (by decide)).trans (bcd_digits _ 0)
    · exact (digit (k := 1) (by decide)).trans (bcd_digits _ 1)
    · exact (digit (k := 2) (by decide)).trans (bcd_digits _ 2)
    · exact Memory.read_writeBytes_bcd_outside _ _ ha
  · have hfail : firstInvalid s.i.toNat 3 = some (max s.i.toNat 0x1000) :=
      firstInvalid_some (by decide) (Nat.add_lt_add_right hout 3)
    rw [exec_ldBVx_of_out_of_range hfail]
    exact s.raise_haltsWith _ _

end Sys2Proof.Machine

/-! PROOFS. A decoded word is the word of its instruction, and so a word that no row of the opcode map has is a `NOP`
(R95, R97). -/

namespace Sys2Proof

/-! ## Words from their own fields (R91) -/

section
variable {w : Word} {a b c d : Nibble} {kk : Byte} {nnn : Addr12}

theorem eq_of_addr_fields (ha : (fieldN0 w).toNat = a.toNat) (hn : fieldNNN w = nnn) : a ++ nnn = w := by
  subst hn
  apply BitVec.eq_of_toNat_eq
  rw [addrWord_toNat, ← ha, fieldN0_toNat, fieldNNN_toNat]
  omega

theorem eq_of_byte_fields (ha : (fieldN0 w).toNat = a.toNat) (hb : fieldX w = b) (hk : (fieldKK w).toNat = kk.toNat) :
    a ++ b ++ kk = w := by
  subst hb
  apply BitVec.eq_of_toNat_eq
  rw [byteWord_toNat, ← ha, ← hk, fieldN0_toNat, fieldX_toNat, fieldKK_toNat]
  omega

theorem eq_of_nibble_fields (ha : (fieldN0 w).toNat = a.toNat) (hb : fieldX w = b) (hc : fieldY w = c)
    (hd : (fieldN w).toNat = d.toNat) : a ++ b ++ c ++ d = w := by
  subst hb hc
  apply BitVec.eq_of_toNat_eq
  rw [nibbles_toNat, ← ha, ← hd, fieldN0_toNat, fieldX_toNat, fieldY_toNat, fieldN_toNat]
  omega

/-! ## The encoder after the decoder, family by family (R99) -/

theorem encode_decodeFamily0 (h : (fieldN0 w).toNat = 0x0) : encode (decodeFamily0 w) = w := by
  unfold decodeFamily0
  split
  case h_1 hn => exact eq_of_addr_fields (a := 0x0#4) (nnn := 0x0E0#12) h (BitVec.eq_of_toNat_eq hn)
  case h_2 hn => exact eq_of_addr_fields (a := 0x0#4) (nnn := 0x0EE#12) h (BitVec.eq_of_toNat_eq hn)
  case h_3 => rfl

theorem encode_decodeFamily8 (h : (fieldN0 w).toNat = 0x8) : encode (decodeFamily8 w) = w := by
  unfold decodeFamily8
  split
  case h_10 => rfl
  all_goals exact eq_of_nibble_fields h rfl rfl ‹_›

theorem encode_decodeFamilyE (h : (fieldN0 w).toNat = 0xE) : encode (decodeFamilyE w) = w := by
  unfold decodeFamilyE
  split
  case h_3 => rfl
  all_goals exact eq_of_byte_fields h rfl ‹_›

theorem encode_decodeFamilyF (h : (fieldN0 w).toNat = 0xF) : encode (decodeFamilyF w) = w := by
  unfold decodeFamilyF
  split
  case h_10 => rfl
  all_goals exact eq_of_byte_fields h rfl ‹_›

end

/-- Decoding loses no bit of the word. -/
theorem encode_decode (w : Word) : encode (decode w) = w := by
  unfold decode
  split
  case h_1 h => exact encode_decodeFamily0 h
  case h_2 h | h_3 h | h_11 h | h_12 h => exact eq_of_addr_fields h rfl
  case h_4 h | h_5 h | h_7 h | h_8 h | h_13 h => exact eq_of_byte_fields h rfl rfl
  case h_6 h | h_10 h =>
    split
    · exact eq_of_nibble_fields h rfl rfl (congrArg BitVec.toNat ‹_›)
    · rfl
  case h_9 h => exact encode_decodeFamily8 h
  case h_14 h => exact eq_of_nibble_fields h rfl rfl rfl
  case h_15 h => exact encode_decodeFamilyE h
  case h_16 =>
    have h : (fieldN0 w).toNat = 0xF := by
      have hlt := (fieldN0 w).isLt
      simp only [imp_false] at *
      omega
    exact encode_decodeFamilyF h

/-! ## Unrecognized words -/

theorem Laws.EncodesItsRow.all (i : Instr) : Statement i :=
  i.casesOn cls ret jpAddr callAddr seVxByte sneVxByte seVxVy ldVxByte addVxByte ldVxVy orVxVy andVxVy xorVxVy addVxVy
    subVxVy shrVxVy subnVxVy shlVxVy sneVxVy ldIAddr jpV0Addr rndVxByte drwVxVyN skpVx sknpVx ldVxDT ldVxK ldDTVx ldSTVx
    addIVx ldFVx ldBVx ldMemIVx ldVxMemI nop

theorem Instr.symbol_eq_nop_iff {i : Instr} : i.symbol = .nop ↔ ∃ w, i = .nop w := by
  cases i <;> simp [Instr.symbol]

/-- The word of a decoded row 1 to 34 would be in that row, so only a `NOP` is left, and its word is the decoded one. -/
theorem decode_of_unrecognized {w : Word} (h : recognized w = false) : decode w = .nop w := by
  have hw : encode (decode w) = w := encode_decode w
  obtain hnop | ⟨r, hr, -, hmatch⟩ := Laws.EncodesItsRow.all (decode w)
  · obtain ⟨v, hv⟩ := Instr.symbol_eq_nop_iff.1 hnop
    rw [hv] at hw ⊢
    exact congrArg Instr.nop hw
  · rw [hw] at hmatch
    exact absurd hmatch (List.any_eq_false.1 h r hr)

end Sys2Proof

/-! PROOFS. The control transfers (R160 to R168): a rule for each outcome of `CALL`, `RET` and the skips, and the
statements from them. -/

namespace Sys2Proof.Machine

/-! ## The stack (R161, R163) -/

section
variable {s : State}

theorem exec_callAddr_of_room (nnn : Addr12) (h : s.stack.length < 16) :
    exec (.callAddr nnn) s = .next ((s.setStack ((s.pc + 2#16) :: s.stack)).setPc (immAddr nnn)) := if_pos h

theorem exec_callAddr_of_full (nnn : Addr12) (h : 16 ≤ s.stack.length) :
    exec (.callAddr nnn) s = s.raise (.callAddr nnn) .stackOverflow := if_neg (Nat.not_lt.2 h)

theorem exec_ret_of_cons {e : Word} {rest : List Word} (h : s.stack = e :: rest) :
    exec .ret s = .next ((s.setStack rest).setPc e) := by
  simp only [exec, execRet, h]

theorem exec_ret_of_nil (h : s.stack = []) : exec .ret s = s.raise .ret .stackUnderflow := by
  simp only [exec, execRet, h]

end

/-- Settles O27: the depth decides between the push with its jump and the halt. -/
theorem callPushesTheReturnAddress : Obligations.CallPushesTheReturnAddress := by
  intro nnn s
  refine ⟨rfl, fun hroom => ?_, fun hfull => ?_⟩
  · exact ⟨_, exec_callAddr_of_room nnn hroom, immAddr_toNat nnn, ⟨_, BitVec.toNat_add _ _, rfl⟩, rfl⟩
  · rw [exec_callAddr_of_full nnn hfull]
    exact s.raise_haltsWith _ _

/-- Settles O28: the stack's two forms decide between the pop and the halt. -/
theorem retPopsIntoThePc : Obligations.RetPopsIntoThePc := by
  intro s
  refine ⟨rfl, fun e rest hcons => exec_ret_of_cons hcons, fun hnil => ?_⟩
  rw [exec_ret_of_nil hnil]
  exact s.raise_haltsWith _ _

/-! ## The skips (R164 to R167) -/

section
variable (a b : Byte)

theorem eq8_eq_true : eq8 a b = true ↔ a = b := beq_iff_eq

theorem eq8_eq_false : eq8 a b = false ↔ a ≠ b := beq_eq_false_iff_ne

theorem not_eq8_eq_true : (!eq8 a b) = true ↔ a ≠ b := by
  rw [Bool.not_eq_true', eq8_eq_false]

theorem not_eq8_eq_false : (!eq8 a b) = false ↔ a = b := by
  rw [Bool.not_eq_false', eq8_eq_true]

end

/-- Both outcomes of an instruction that is a skip on `c`: `p` says when `c` holds, `q` when it does not (R127). -/
theorem exec_skip {i : Instr} {s : State} {c : Bool} {p q : Prop} (hexec : exec i s = .next (s.skipIf c))
    (hp : c = true ↔ p) (hq : c = false ↔ q) :
    (p → exec i s = .next { s with pc := s.pc + 4#16 }) ∧ (q → exec i s = .next { s with pc := s.pc + 2#16 }) := by
  constructor
  · intro h
    rw [hexec, hp.2 h]
    rfl
  · intro h
    rw [hexec, hq.2 h]
    rfl

/-- Settles O29: each of the four is a skip on the test of equality or on its negation. -/
theorem skipsTestRegistersAndMoveThePcBy4Or2 : Obligations.SkipsTestRegistersAndMoveThePcBy4Or2 := by
  intro x y kk s
  refine ⟨⟨rfl, ?_⟩, ⟨rfl, ?_⟩, ⟨rfl, ?_⟩, rfl, ?_⟩
  · exact exec_skip rfl (eq8_eq_true _ _) (eq8_eq_false _ _)
  · exact exec_skip rfl (not_eq8_eq_true _ _) (not_eq8_eq_false _ _)
  · exact exec_skip rfl (eq8_eq_true _ _) (eq8_eq_false _ _)
  · exact exec_skip rfl (not_eq8_eq_true _ _) (not_eq8_eq_false _ _)

/-! ## No operation, and the jumps (R160, R162, R168) -/

theorem exec_nop (w : Word) (s : State) : exec (.nop w) s = .next s.advance := rfl

/-- Settles O25: an unrecognized word decodes to its `NOP`, which is the advance alone. -/
theorem nopOnlyAdvances : Obligations.NopOnlyAdvances :=
  fun w s hw => ⟨decode_of_unrecognized hw, exec_nop w s⟩

/-- The target of `JP V0, addr` as R168 states it. -/
theorem immAddr_add_byteWord_toNat_mod (nnn : Addr12) (b : Byte) :
    (immAddr nnn + byteWord b).toNat = (nnn.toNat + b.toNat) % 65536 := by
  rw [BitVec.toNat_add, immAddr_toNat, byteWord_eq_toNat]

/-- Settles O26: each jump writes the `pc` alone. -/
theorem jumpsReplaceThePc : Obligations.JumpsReplaceThePc := by
  intro nnn s
  constructor
  · exact ⟨rfl, _, exec_jpAddr nnn s, immAddr_toNat nnn, rfl⟩
  · exact ⟨rfl, _, exec_jpV0Addr nnn s, immAddr_add_byteWord_toNat_mod nnn _, rfl⟩

end Sys2Proof.Machine

/-! PROOFS. The loads of a byte and of the delay timer, and the add of a byte (R180, R181, R242), which each write one
register and no flag. -/

namespace Sys2Proof.Machine

/-! ## One register written -/

theorem exec_ldVxByte (x : Nibble) (kk : Byte) (s : State) :
    exec (.ldVxByte x kk) s = .next (s.setV x kk).advance := rfl

theorem exec_ldVxDT (x : Nibble) (s : State) : exec (.ldVxDT x) s = .next (s.setV x s.dt).advance := rfl

theorem exec_addVxByte (x : Nibble) (kk : Byte) (s : State) :
    exec (.addVxByte x kk) s = .next (s.setV x (inc8 (s.getV x) kk)).advance := rfl

/-- Settles O31: each load is one register write and the advance. -/
theorem byteAndTimerLoadsWriteOneRegister : Obligations.ByteAndTimerLoadsWriteOneRegister := by
  intro x kk s
  constructor
  · exact ⟨rfl, _, exec_ldVxByte x kk s, s.writesV_setV x kk⟩
  · exact ⟨rfl, _, exec_ldVxDT x s, s.writesV_setV x s.dt⟩

/-- Settles O33: the byte written is the sum of the old `V[x]` and `kk` mod 256, without `WriteBack` and its flag. -/
theorem addImmediateWrapsWithoutAFlag : Obligations.AddImmediateWrapsWithoutAFlag := by
  intro x kk s
  exact ⟨rfl, _, _, exec_addVxByte x kk s, inc8_toNat _ kk, s.writesV_setV x _⟩

end Sys2Proof.Machine

/-! PROOFS. The range store and the range load (R204, R205), which move `V[0]` to `V[x]` and then `I` past them, and the
two instructions that only set `I` (R200, R201). -/

namespace Sys2Proof.Machine

/-! ## The range check of `x + 1` bytes -/

theorem firstInvalid_range_eq_none {base k : Nat} (h : base + k ≤ 0xFFF) : firstInvalid base (k + 1) = none :=
  (firstInvalid_none_iff _ _).2 (.inr (Nat.succ_le_succ h))

theorem firstInvalid_range_eq_some {base k : Nat} (h : 0xFFF < base + k) :
    firstInvalid base (k + 1) = some (max base 0x1000) :=
  firstInvalid_some (Nat.succ_pos _) (Nat.succ_lt_succ h)

/-! ## The range store -/

theorem exec_ldMemIVx_of_in_range {s : State} {x : Nibble} (h : firstInvalid s.i.toNat (x.toNat + 1) = none) :
    exec (.ldMemIVx x) s = .next
      ((s.setMem (s.mem.writeBytes s.i.toNat (s.regBytes (x.toNat + 1)))).setI (inc16 s.i (x.toNat + 1))).advance := by
  simp only [exec, execLdMemIVx, State.base, h]

/-- Byte `k` of the stored registers is `V[k]`. -/
theorem State.regBytes_getD (s : State) {n : Nat} {k : Nibble} (h : k.toNat < n) :
    (s.regBytes n).getD k.toNat 0#8 = s.getV k := by
  rw [List.getD_eq_getElem?_getD, State.regBytes_get s n _ h, BitVec.ofNat_toNat, BitVec.setWidth_eq, Option.getD_some]

/-- A byte of memory after the first `n` registers were written from `a`: `V[k]` at `a + k`. -/
theorem Memory.read_writeBytes_regBytes (m : Memory) (a : Nat) (s : State) {n : Nat} {k : Nibble} (h : k.toNat < n) :
    (m.writeBytes a (s.regBytes n)).read (a + k.toNat) = s.getV k := by
  rw [Memory.read_writeBytes, State.regBytes_length, if_pos ⟨Nat.le_add_right _ _, Nat.add_lt_add_left h _⟩,
    Nat.add_sub_cancel_left, State.regBytes_getD s h]

/-- Every other byte of memory after registers 0 to `k` were written from `a`. -/
theorem Memory.read_writeBytes_regBytes_outside (m : Memory) (s : State) {a k q : Nat} (h : q < a ∨ a + k < q) :
    (m.writeBytes a (s.regBytes (k + 1))).read q = m.read q := by
  rw [Memory.read_writeBytes, State.regBytes_length, if_neg (by omega)]

/-- Settles O43: the range check decides between the write of the registers, each read back from its address, and the
halt. -/
theorem storeRegistersWritesTheRange : Obligations.StoreRegistersWritesTheRange := by
  intro x s
  refine ⟨rfl, fun hin => ?_, fun hout => ?_⟩
  · refine ⟨_, exec_ldMemIVx_of_in_range (firstInvalid_range_eq_none hin), fun k hk => ?_, fun a ha => ?_,
      inc16_toNat s.i _, rfl⟩
    · exact Memory.read_writeBytes_regBytes _ _ s (Nat.lt_succ_of_le hk)
    · exact Memory.read_writeBytes_regBytes_outside _ s ha
  · rw [exec_ldMemIVx_of_out_of_range (firstInvalid_range_eq_some hout)]
    exact s.raise_haltsWith _ _

/-! ## The range load -/

section
variable (s : State) (base : Nat) {x k : Nibble}

/-- A register up to `x` after the load of registers 0 to `x`. -/
theorem State.getV_loadRegs_of_le (h : k.toNat ≤ x.toNat) :
    (s.loadRegs base (x.toNat + 1)).getV k = s.mem.read (base + k.toNat) := by
  rw [State.getV_loadRegs s base _ x.isLt, if_pos (Nat.lt_succ_of_le h)]

/-- A register above `x` after the load of registers 0 to `x`. -/
theorem State.getV_loadRegs_of_lt (h : x.toNat < k.toNat) :
    (s.loadRegs base (x.toNat + 1)).getV k = s.getV k := by
  rw [State.getV_loadRegs s base _ x.isLt, if_neg (Nat.not_lt.2 h)]

end

/-- Settles O44: the range check decides between the load, whose registers are read one by one, and the halt. -/
theorem loadRegistersReadsTheRange : Obligations.LoadRegistersReadsTheRange := by
  intro x s
  refine ⟨rfl, fun hin => ?_, fun hout => ?_⟩
  · have hframe := congrArg (fun u : State => (u.setI (inc16 s.i (x.toNat + 1))).advance)
      (s.loadRegs_frame s.i.toNat (x.toNat + 1))
    refine ⟨_, exec_ldVxMemI_of_in_range (firstInvalid_range_eq_none hin), fun k hk => ?_, fun k hk => ?_,
      inc16_toNat s.i _, hframe⟩
    · exact s.getV_loadRegs_of_le s.i.toNat hk
    · exact s.getV_loadRegs_of_lt s.i.toNat hk
  · rw [exec_ldVxMemI_of_out_of_range (firstInvalid_range_eq_some hout)]
    exact s.raise_haltsWith _ _

/-! ## `I` alone -/

/-- Settles O40: each writes `I` and advances, and leaves every register as it was. -/
theorem indexLoadsAndAdds : Obligations.IndexLoadsAndAdds := by
  intro nnn x s
  constructor
  · exact ⟨rfl, _, exec_ldIAddr nnn s, immAddr_toNat nnn, rfl⟩
  · exact ⟨rfl, _, exec_addIVx x s, inc16_toNat s.i _, rfl⟩

end Sys2Proof.Machine

/-! PROOFS. The display instructions (R220 to R225): `CLS` blanks the display; a draw inverts the cells under the set
sprite bits on the grid and reports the collision. -/

namespace Sys2Proof.Machine

/-! ## Clearing the screen (R220) -/

theorem exec_cls (s : State) : exec .cls s = .next (s.setDisp Display.blank).advance := rfl

@[simp] theorem Display.cell_blank (q : Nat) : Display.blank.cell q = false := Display.get_blank _ _

/-- Settles O48: the one field written beside `pc` is the display, which becomes blank; a cycle publishes for `DRW`
alone. -/
theorem clearScreenZeroesEveryCell : Obligations.ClearScreenZeroesEveryCell := by
  intro s
  exact ⟨rfl, _, exec_cls s, fun q _ => Display.cell_blank q, rfl, rfl⟩

/-! ## The range check of `n` rows (R227) -/

theorem firstInvalid_rows_eq_none {base n : Nat} (h : n = 0 ∨ base + n - 1 ≤ 0xFFF) : firstInvalid base n = none :=
  (firstInvalid_none_iff _ _).2 (h.imp_right Nat.le_add_of_sub_le)

theorem firstInvalid_rows_eq_some {base n : Nat} (hn : 0 < n) (h : 0xFFF < base + n - 1) :
    firstInvalid base n = some (max base 0x1000) :=
  firstInvalid_some hn (Nat.add_lt_of_lt_sub h)

/-! ## The canvas of a draw -/

/-- Byte `k` of the bytes read from `a`, as the draw takes it. -/
theorem Memory.readBytes_getD (m : Memory) (a : Nat) {n k : Nat} (h : k < n) :
    (m.readBytes a n).getD k 0#8 = m.read (a + k) := by
  rw [List.getD_eq_getElem?_getD, Memory.readBytes_getElem? m a n k h, Option.getD_some]

/-- The display and the collision flag that `DRW Vx, Vy, n` leaves (R221). -/
def State.spriteCanvas (s : State) (x y n : Nibble) : Canvas :=
  drawRows (s.originCol x) (s.originRow y) (s.mem.readBytes s.i.toNat n.toNat) ⟨s.disp, false⟩

theorem exec_drwVxVyN_eq_spriteCanvas {s : State} {x y n : Nibble} (h : firstInvalid s.i.toNat n.toNat = none) :
    exec (.drwVxVyN x y n) s = .next
      ((s.setDisp (s.spriteCanvas x y n).disp).setV regVF (flagByte (s.spriteCanvas x y n).coll)).advance :=
  exec_drwVxVyN_of_in_range h

section
variable {s : State} {x y n : Nibble} {r c col row q : Nat}

theorem State.spriteAt.col_lt (h : s.spriteAt x y n r c col row) : col < 64 := by
  obtain ⟨-, -, -, -, hcol, -⟩ := h
  exact Nat.lt_succ_of_le hcol

/-- The bit a draw puts on the cell under a sprite pixel is that pixel. -/
theorem spriteBitAt_of_spriteAt (h : s.spriteAt x y n r c col row) :
    spriteBitAt (s.originCol x) (s.originRow y) (s.mem.readBytes s.i.toNat n.toNat) col row = s.spriteBit r c := by
  obtain ⟨hr, hc, rfl, rfl, hcol, hrow⟩ := h
  simp only [spriteBitAt, State.originCol, State.originRow, Memory.readBytes_length, Nat.add_sub_cancel_left,
    Memory.readBytes_getD _ _ hr]
  rw [decide_eq_true (by omega), Bool.true_and]
  rfl

/-- A cell under no sprite pixel gets the bit 0 (R223). -/
theorem spriteBitAt_of_not_spriteAt (h : ∀ r c, ¬ s.spriteAt x y n r c col row) :
    spriteBitAt (s.originCol x) (s.originRow y) (s.mem.readBytes s.i.toNat n.toNat) col row = false := by
  rw [spriteBitAt, Memory.readBytes_length, decide_eq_false, Bool.false_and]
  rintro ⟨hrow, hrow', hbottom, hcol, hcol', hright⟩
  exact h (row - s.originRow y) (col - s.originCol x) ⟨by omega, by omega, (Nat.add_sub_of_le hcol).symm,
    (Nat.add_sub_of_le hrow).symm, hright, hbottom⟩

/-- The cell under a sprite pixel after the draw (R225). -/
theorem State.spriteCanvas_cell_of_spriteAt (h : s.spriteAt x y n r c col row) :
    (s.spriteCanvas x y n).disp.cell (64 * row + col) = (s.disp.cell (64 * row + col) ^^ s.spriteBit r c) := by
  rw [Display.cell_eq _ h.col_lt, Display.cell_eq _ h.col_lt, State.spriteCanvas, drawRows_get,
    spriteBitAt_of_spriteAt h]

/-- A cell under no sprite pixel after the draw: dropped pixels reach none (R223). -/
theorem State.spriteCanvas_cell_of_not_spriteAt
    (h : ∀ r c col row, s.spriteAt x y n r c col row → q ≠ 64 * row + col) :
    (s.spriteCanvas x y n).disp.cell q = s.disp.cell q := by
  have hoff : ∀ r c, ¬ s.spriteAt x y n r c (q % 64) (q / 64) :=
    fun r c hat => h r c _ _ hat (Nat.div_add_mod q 64).symm
  rw [Display.cell, State.spriteCanvas, drawRows_get, spriteBitAt_of_not_spriteAt hoff, Bool.xor_false, Display.cell]

/-- The draw collides exactly when a sprite pixel of bit 1 on the grid lay over a set cell (R224). -/
theorem State.spriteCanvas_coll_iff (s : State) (x y n : Nibble) :
    (s.spriteCanvas x y n).coll = true ↔ ∃ r c col row, s.spriteAt x y n r c col row ∧ s.spriteBit r c = true ∧
      s.disp.cell (64 * row + col) = true := by
  rw [State.spriteCanvas, drawRows_coll, Memory.readBytes_length]
  constructor
  · rintro (hfalse | ⟨r, c, hr, hc, hcol, hrow, hbit, hcell⟩)
    · cases hfalse
    · rw [Memory.readBytes_getD _ _ hr] at hbit
      exact ⟨r, c, _, _, ⟨hr, hc, rfl, rfl, hcol, hrow⟩, hbit,
        (Display.cell_eq _ (Nat.lt_succ_of_le hcol)).trans hcell⟩
  · rintro ⟨r, c, _, _, ⟨hr, hc, rfl, rfl, hcol, hrow⟩, hbit, hcell⟩
    rw [Display.cell_eq _ (Nat.lt_succ_of_le hcol)] at hcell
    exact .inr ⟨r, c, hr, hc, hcol, hrow, by rwa [Memory.readBytes_getD _ _ hr], hcell⟩

end

/-- Settles O49: the range check decides between the draw, whose canvas is read cell by cell, and the halt. -/
theorem drawXorsTheSpriteAndReportsCollision : Obligations.DrawXorsTheSpriteAndReportsCollision := by
  intro x y n s
  refine ⟨rfl, fun hin => ?_, fun ⟨hn, hout⟩ => ?_⟩
  · have hflag := State.getV_setV_same (s.setDisp (s.spriteCanvas x y n).disp) regVF
      (flagByte (s.spriteCanvas x y n).coll)
    refine ⟨_, exec_drwVxVyN_eq_spriteCanvas (firstInvalid_rows_eq_none hin), ?cellsUnder, ?otherCells, ?hit, ?noHit,
      ?registers, rfl, rfl⟩
    case cellsUnder => exact fun r c col row hat => State.spriteCanvas_cell_of_spriteAt hat
    case otherCells => exact fun q _ hoff => State.spriteCanvas_cell_of_not_spriteAt hoff
    case hit =>
      intro hhit
      exact hflag.trans (congrArg flagByte ((s.spriteCanvas_coll_iff x y n).2 hhit))
    case noHit =>
      intro hmiss
      exact hflag.trans (congrArg flagByte (Bool.eq_false_iff.2 (mt (s.spriteCanvas_coll_iff x y n).1 hmiss)))
    case registers => exact fun r hr => State.getV_setV_other _ _ hr
  · rw [exec_drwVxVyN_of_out_of_range (firstInvalid_rows_eq_some hn hout)]
    exact s.raise_haltsWith _ _

end Sys2Proof.Machine

/-! PROOFS. The two loads of a timer (R244, R245), the ticks that follow them (R128, R276), and the tone (R278). -/

namespace Sys2Proof.Machine

/-! ## Ticks and the tone -/

theorem State.tickDue_iff (s : State) : s.tickDue = true ↔ s.cycleCount + 1 = s.cyclesPerTick := decide_eq_true_iff

theorem State.endCycle_dt_toNat (s : State) (y : Symbol) :
    (s.endCycle y).dt.toNat = if s.cycleCount + 1 = s.cyclesPerTick then s.dt.toNat - 1 else s.dt.toNat := by
  simp only [State.endCycle_dt, State.tickDue_iff, apply_ite BitVec.toNat, tickTimer_toNat]

theorem State.endCycle_st_toNat (s : State) (y : Symbol) :
    (s.endCycle y).st.toNat = if s.cycleCount + 1 = s.cyclesPerTick then s.st.toNat - 1 else s.st.toNat := by
  simp only [State.endCycle_st, State.tickDue_iff, apply_ite BitVec.toNat, tickTimer_toNat]

/-- A timer after `n` ticks (R276). -/
theorem tickTimer_iterate_toNat (b : Byte) (n : Nat) : (tickTimer^[n] b).toNat = b.toNat - n := by
  induction n with
  | zero => rfl
  | succ n ih => rw [Function.iterate_succ_apply', tickTimer_toNat, ih, Nat.sub_sub]

theorem State.tone_iff_st_ne_zero (s : State) : s.tone = true ↔ s.st ≠ 0 :=
  s.tone_iff.trans (Nat.pos_iff_ne_zero.trans (not_congr (BitVec.toNat_eq (y := 0#8)).symm))

/-- The tone over the ticks after a write of `b` to `ST` (R245, R278). -/
theorem State.tone_setST_iterate (s : State) (b : Byte) (n : Nat) :
    (s.setST (tickTimer^[n] b)).tone = true ↔ n < b.toNat := by
  rw [State.tone_iff, State.setST_st, tickTimer_iterate_toNat, Nat.sub_pos_iff_lt]

/-! ## The two loads -/

theorem exec_ldDTVx (x : Nibble) (s : State) : exec (.ldDTVx x) s = .next (s.setDT (s.getV x)).advance := rfl

theorem exec_ldSTVx (x : Nibble) (s : State) : exec (.ldSTVx x) s = .next (s.setST (s.getV x)).advance := rfl

/-- Settles O53: each load is one timer write and the advance; the tick and the tone then see the written value. -/
theorem timerLoadsWriteOneTimer : Obligations.TimerLoadsWriteOneTimer := by
  intro x s
  refine ⟨⟨rfl, _, exec_ldDTVx x s, rfl, ?dtAtEnd⟩,
    rfl, _, exec_ldSTVx x s, rfl, ?toneNow, ?stAtEnd, ?toneAtEnd, ?toneAfterTicks⟩
  case dtAtEnd => exact State.endCycle_dt_toNat (s.setDT (s.getV x)).advance _
  case toneNow => exact State.tone_iff_st_ne_zero _
  case stAtEnd => exact State.endCycle_st_toNat (s.setST (s.getV x)).advance _
  case toneAtEnd => exact State.tone_iff_st_ne_zero _
  case toneAfterTicks => exact State.tone_setST_iterate _ _

end Sys2Proof.Machine

/-! PROOFS. The count of a cycle whose tick is due (R128, R276). -/

namespace Sys2Proof.Machine

/-- The floor of a tick (R276). -/
theorem tickTimer_toNat_of_zero {b : Byte} (h : b.toNat = 0) : (tickTimer b).toNat = 0 := by
  rw [tickTimer_toNat, h]

/-- The count of a cycle whose tick is due, on the whole state (R128). -/
theorem State.countCycle_of_due {s : State} (h : s.cycleCount + 1 = s.cyclesPerTick) :
    s.countCycle = { s with dt := tickTimer s.dt, st := tickTimer s.st, cycleCount := 0 } := by
  simp only [State.countCycle, s.tickDue_iff.2 h, if_true]

/-- Settles O10: a due count ticks both timers and starts again; the value after `n` ticks is by induction on `n`. -/
theorem tickDecrementsBothTimersDownToZero : Obligations.TickDecrementsBothTimersDownToZero := by
  refine ⟨fun s t hdue ht => ?_, tickTimer_iterate_toNat⟩
  rw [State.countCycle_of_due hdue] at ht
  subst ht
  exact ⟨fun _ => tickTimer_toNat _, tickTimer_toNat_of_zero, fun _ => tickTimer_toNat _, tickTimer_toNat_of_zero, rfl⟩

end Sys2Proof.Machine

/-! PROOFS. The decoder and the encoder undo each other, and the decoder is the opcode map read as a table (R90 to
R97). -/

namespace Sys2Proof

/-! ## The decoder after the encoder (R95) -/

theorem Instr.nop_wellFormed_iff (w : Word) : (Instr.nop w).WellFormed ↔ recognized w = false :=
  Iff.of_eq (Bool.not_eq_true' _)

/-- Settles O2: the fields of the encoded word are the operands, so the keys of its family lead back to the constructor;
a well-formed `nop` holds a word of no row. -/
theorem decodeOfEncodeIsTheInstruction : Obligations.DecodeOfEncodeIsTheInstruction := by
  intro i hi
  cases i with
  | nop w => exact decode_of_unrecognized ((Instr.nop_wellFormed_iff w).1 hi)
  | cls | ret => rfl
  | jpAddr | callAddr | ldIAddr | jpV0Addr => simp [encode, decode]
  | seVxByte | sneVxByte | ldVxByte | addVxByte | rndVxByte => simp [encode, decode]
  | seVxVy | sneVxVy | drwVxVyN => simp [encode, decode]
  | ldVxVy | orVxVy | andVxVy | xorVxVy | addVxVy | subVxVy | shrVxVy | subnVxVy | shlVxVy =>
    simp [encode, decode, decodeFamily8]
  | skpVx | sknpVx => simp [encode, decode, decodeFamilyE]
  | ldVxDT | ldVxK | ldDTVx | ldSTVx | addIVx | ldFVx | ldBVx | ldMemIVx | ldVxMemI =>
    simp [encode, decode, decodeFamilyF]

/-- Settles O6: the two bytes make up the word again, and the word is decoded; a string of no byte or of one has no
second byte. -/
theorem instructionBytesDecodeToTheInstruction : Obligations.InstructionBytesDecodeToTheInstruction := by
  constructor
  · intro i rest hi
    have hdecode : decode (wordOfBytes (highByte (encode i)) (lowByte (encode i))) = i := by
      rw [wordOfBytes_bytes, decodeOfEncodeIsTheInstruction i hi]
    exact congrArg (fun j => Except.ok (j, rest)) hdecode
  · intro bs hbs
    match bs with
    | [] | [_] => rfl
    | _ :: _ :: _ => simp at hbs

/-! ## Rows of the opcode map (R95) -/

/-- A match compares the decoder's keys: each key whose bits the mask holds is the value's. -/
theorem OpcodeRow.keys_of_matches {r : OpcodeRow} {w : Word} (h : r.matches w = true) :
    (r.mask.toNat / 4096 = 0xF → (fieldN0 w).toNat = r.value.toNat / 4096) ∧
    (r.mask.toNat % 4096 = 0xFFF → (fieldNNN w).toNat = r.value.toNat % 4096) ∧
    (r.mask.toNat % 256 = 0xFF → (fieldKK w).toNat = r.value.toNat % 256) ∧
    (r.mask.toNat % 16 = 0xF → (fieldN w).toNat = r.value.toNat % 16) := by
  have hw : w &&& r.mask = r.value := beq_iff_eq.1 h
  have key {k : Nat} {m p : BitVec k} (hm : m = BitVec.allOnes k) : p.toNat = (p &&& m).toNat := by
    rw [hm, BitVec.and_allOnes]
  simp only [← fieldN0_toNat, ← fieldNNN_toNat, ← fieldKK_toNat, ← fieldN_toNat, ← hw]
  simp only [fieldN0, fieldNNN, fieldKK, fieldN, BitVec.extractLsb'_and]
  exact ⟨fun hm => key (BitVec.eq_of_toNat_eq hm), fun hm => key (BitVec.eq_of_toNat_eq hm),
    fun hm => key (BitVec.eq_of_toNat_eq hm), fun hm => key (BitVec.eq_of_toNat_eq hm)⟩

/-- A word of a row 1 to 34 decodes to an instruction of that row: its keys, row by row, run the decoder. -/
theorem symbol_decode_of_matches {r : OpcodeRow} {w : Word} (hr : r ∈ opcodeRows) (h : r.matches w = true) :
    (decode w).symbol = r.symbol := by
  obtain ⟨hn0, hnnn, hkk, hn⟩ := OpcodeRow.keys_of_matches h
  fin_cases hr <;>
    simp [decode, decodeFamily0, decodeFamily8, decodeFamilyE, decodeFamilyF, Instr.symbol, hn0, hnnn, hkk, hn,
      BitVec.toNat_eq]

theorem opcodeRows_symbol_injective : ∀ r ∈ opcodeRows, ∀ q ∈ opcodeRows, r.symbol = q.symbol → r = q := by decide

theorem opcodeRows_symbol_ne_nop : ∀ r ∈ opcodeRows, r.symbol ≠ .nop := by decide

/-- The word of a decoded `nop` is in no row. -/
theorem recognized_eq_false_of_symbol_nop {w : Word} (h : (decode w).symbol = .nop) : recognized w = false := by
  refine List.any_eq_false.2 fun r hr hmatch => opcodeRows_symbol_ne_nop r hr ?_
  rw [← symbol_decode_of_matches hr hmatch, h]

/-- Settles O4: the first matching row, like any matching row, names the decoded symbol, and no two rows name one
symbol. -/
theorem decodeAgreesWithTheOpcodeMap : Obligations.DecodeAgreesWithTheOpcodeMap := by
  intro w
  constructor
  · cases hfind : opcodeRows.find? fun r => r.matches w with
    | some r =>
      exact symbol_decode_of_matches (List.mem_of_find?_eq_some hfind)
        (List.find?_some (p := fun r : OpcodeRow => r.matches w) hfind)
    | none =>
      have hnone : recognized w = false := List.any_eq_false.2 (List.find?_eq_none.1 hfind)
      rw [decode_of_unrecognized hnone]
      rfl
  · intro r hr q hq hrw hqw
    apply opcodeRows_symbol_injective r hr q hq
    rw [← symbol_decode_of_matches hr hrw, symbol_decode_of_matches hq hqw]

/-- Settles O3: a decoded `nop` holds the word itself, which is in no row; the other round trip is `encode_decode`. -/
theorem everyWordIsTheWordOfItsInstruction : Obligations.EveryWordIsTheWordOfItsInstruction := by
  intro w
  refine ⟨?_, encode_decode w⟩
  cases hdecode : decode w with
  | nop v =>
    have hv : v = w := by rw [← encode_decode w, hdecode]; rfl
    subst hv
    exact (Instr.nop_wellFormed_iff v).2 (recognized_eq_false_of_symbol_nop (by rw [hdecode]; rfl))
  | _ => rfl

/-! ## The reserved words (R97) -/

section
variable (w : Word)

theorem decodeFamily0_eq_nop_iff : decodeFamily0 w = .nop w ↔ (fieldNNN w).toNat ∉ [0x0E0, 0x0EE] := by
  unfold decodeFamily0
  split <;> simp_all

theorem decodeFamily8_eq_nop_iff :
    decodeFamily8 w = .nop w ↔ (fieldN w).toNat ∈ [0x8, 0x9, 0xA, 0xB, 0xC, 0xD, 0xF] := by
  unfold decodeFamily8
  split
  case h_10 =>
    have hlt := (fieldN w).isLt
    simp only [imp_false] at *
    simp only [List.mem_cons, List.not_mem_nil, or_false, true_iff]
    omega
  all_goals simp_all

theorem decodeFamilyE_eq_nop_iff : decodeFamilyE w = .nop w ↔ (fieldKK w).toNat ∉ [0x9E, 0xA1] := by
  unfold decodeFamilyE
  split <;> simp_all

theorem decodeFamilyF_eq_nop_iff : decodeFamilyF w = .nop w ↔
    (fieldKK w).toNat ∉ [0x07, 0x0A, 0x15, 0x18, 0x1E, 0x29, 0x33, 0x55, 0x65] := by
  unfold decodeFamilyF
  split <;> simp_all

end

/-- Settles O5: the families 0, 5, 8, 9, E and F have a remainder that decodes to `nop`, the others have none. -/
theorem nopWordsAreTheUnrecognizedOnes : Obligations.NopWordsAreTheUnrecognizedOnes := by
  intro w
  have hlt := (fieldN0 w).isLt
  rw [← decodeFamily0_eq_nop_iff, ← decodeFamily8_eq_nop_iff, ← decodeFamilyE_eq_nop_iff, ← decodeFamilyF_eq_nop_iff]
  unfold decode
  split
  case h_6 h | h_10 h => simp [h, BitVec.toNat_eq]
  case h_16 =>
    have h : (fieldN0 w).toNat = 0xF := by
      simp only [imp_false] at *
      omega
    simp [h]
  all_goals simp [*]

end Sys2Proof

/-! PROOFS. What an instruction can do, said once for all 35: it raises a fault it can report, or it completes in one of
the shapes of `Completes` (R125, R127, R130). The statements over all instructions are read off these shapes. -/

namespace Sys2Proof.Machine

/-! ## The instructions that test a register-held index (R202, R240, R241) -/

section
variable {s : State} {x k : Nibble}

theorem exec_ldFVx_of_digit (h : nibbleOf (s.getV x) = some k) :
    exec (.ldFVx x) s = .next (s.setI (fontAddr (nibbleByte k))).advance := by
  simp only [exec, execLdFVx, h]

theorem exec_ldFVx_of_no_digit (h : nibbleOf (s.getV x) = none) :
    exec (.ldFVx x) s = s.raise (.ldFVx x) (.fontDigitOutOfRange (s.getV x)) := by
  simp only [exec, execLdFVx, h]

theorem exec_skpVx_of_key (h : nibbleOf (s.getV x) = some k) : exec (.skpVx x) s = .next (s.skipIf (s.getKey k)) := by
  simp only [exec, execSkpVx, h]

theorem exec_skpVx_of_no_key (h : nibbleOf (s.getV x) = none) :
    exec (.skpVx x) s = s.raise (.skpVx x) (.keyIndexOutOfRange (s.getV x)) := by
  simp only [exec, execSkpVx, h]

theorem exec_sknpVx_of_key (h : nibbleOf (s.getV x) = some k) :
    exec (.sknpVx x) s = .next (s.skipIf (!s.getKey k)) := by
  simp only [exec, execSknpVx, h]

theorem exec_sknpVx_of_no_key (h : nibbleOf (s.getV x) = none) :
    exec (.sknpVx x) s = s.raise (.sknpVx x) (.keyIndexOutOfRange (s.getV x)) := by
  simp only [exec, execSknpVx, h]

/-! ## The four outcomes of a poll (R243) -/

theorem exec_ldVxK_of_nothing (hw : s.waitKey = none) (hl : s.keyLatch = none) : exec (.ldVxK x) s = .next s := by
  simp only [exec, execLdVxK, hw, hl]

theorem exec_ldVxK_of_latched (hw : s.waitKey = none) (hl : s.keyLatch = some k) :
    exec (.ldVxK x) s = .next ((s.setWaitKey (some k)).setKeyLatch none) := by
  simp only [exec, execLdVxK, hw, hl]

theorem exec_ldVxK_of_down (hw : s.waitKey = some k) (hk : s.getKey k = true) : exec (.ldVxK x) s = .next s := by
  simp only [exec, execLdVxK, hw, hk, if_true]

theorem exec_ldVxK_of_up (hw : s.waitKey = some k) (hk : s.getKey k = false) :
    exec (.ldVxK x) s = .next ((s.setV x (nibbleByte k)).setWaitKey none).advance := by
  simp [exec, execLdVxK, hw, hk]

end

/-! ## The shapes of a completed instruction -/

/-- From `s` the instruction completes in the state given: one constructor for each shape of its writes, with the
symbols that have the shape. -/
inductive Completes (s : State) : Instr → State → Prop where
  | nothing {i : Instr} (hi : i.symbol = .nop) : Completes s i s.advance
  | jump {i : Instr} {w : Word} (hi : i.symbol ∈ [.jpAddr, .jpV0Addr]) (hw : w.toNat ≤ 0x10FE) :
    Completes s i (s.setPc w)
  | call {i : Instr} {w : Word} (hi : i.symbol = .callAddr) (hw : w.toNat ≤ 0xFFF) (hroom : s.stack.length < 16) :
    Completes s i ((s.setStack ((s.pc + 2#16) :: s.stack)).setPc w)
  | ret {i : Instr} {e : Word} {rest : List Word} (hi : i.symbol = .ret) (hstack : s.stack = e :: rest) :
    Completes s i ((s.setStack rest).setPc e)
  | skip {i : Instr} (c : Bool) (hi : i.symbol ∈ [.seVxByte, .sneVxByte, .seVxVy, .sneVxVy, .skpVx, .sknpVx]) :
    Completes s i (s.skipIf c)
  | register {i : Instr} {x : Nibble} (b : Byte) (hi : i.symbol ∈ [.ldVxByte, .addVxByte, .ldVxVy, .ldVxDT])
    (hx : x = regVF → destIsVF i = true) : Completes s i (s.setV x b).advance
  | random {i : Instr} {x : Nibble} (b : Byte) (hi : i.symbol = .rndVxByte) (hx : x = regVF → destIsVF i = true) :
    Completes s i ((s.setV x b).drawn).advance
  | flagged {i : Instr} {x : Nibble} (o : AluOut)
    (hi : i.symbol ∈ [.orVxVy, .andVxVy, .xorVxVy, .addVxVy, .subVxVy, .subnVxVy, .shrVxVy, .shlVxVy]) :
    Completes s i (s.writeBack x o).advance
  | clear {i : Instr} (d : Display) (hi : i.symbol = .cls) : Completes s i (s.setDisp d).advance
  | draw {i : Instr} (d : Display) (b : Byte) (hi : i.symbol = .drwVxVyN) :
    Completes s i ((s.setDisp d).setV regVF b).advance
  | index {i : Instr} (w : Word) (hi : i.symbol ∈ [.ldIAddr, .addIVx, .ldFVx]) : Completes s i (s.setI w).advance
  | digits {i : Instr} {bs : List Byte} (hi : i.symbol = .ldBVx) (hbs : s.i.toNat + bs.length ≤ 0x1000) :
    Completes s i (s.setMem (s.mem.writeBytes s.i.toNat bs)).advance
  | store {i : Instr} {bs : List Byte} (w : Word) (hi : i.symbol = .ldMemIVx) (hbs : s.i.toNat + bs.length ≤ 0x1000) :
    Completes s i ((s.setMem (s.mem.writeBytes s.i.toNat bs)).setI w).advance
  | load {i : Instr} {x : Nibble} (w : Word) (hi : i.symbol = .ldVxMemI) (hx : x = regVF → destIsVF i = true) :
    Completes s i ((s.loadRegs s.i.toNat (x.toNat + 1)).setI w).advance
  | delayTimer {i : Instr} (b : Byte) (hi : i.symbol = .ldDTVx) : Completes s i (s.setDT b).advance
  | soundTimer {i : Instr} (b : Byte) (hi : i.symbol = .ldSTVx) : Completes s i (s.setST b).advance
  | wait {i : Instr} (hi : i.symbol = .ldVxK) : Completes s i s
  | take {i : Instr} (k : Nibble) (hi : i.symbol = .ldVxK) : Completes s i ((s.setWaitKey (some k)).setKeyLatch none)
  | resolve {i : Instr} {x : Nibble} (b : Byte) (hi : i.symbol = .ldVxK) (hx : x = regVF → destIsVF i = true) :
    Completes s i ((s.setV x b).setWaitKey none).advance

/-- What is to be shown of each instruction: it raises or it completes. -/
def RaisesOrCompletes (i : Instr) (s : State) : Prop :=
  (∃ c, canRaise i.symbol c = true ∧ exec i s = s.raise i c) ∨ ∃ t, exec i s = .next t ∧ Completes s i t

section
variable {i : Instr} {s t : State} {base len : Nat}

theorem RaisesOrCompletes.of_raise {c : Cause} (hc : canRaise i.symbol c = true) (h : exec i s = s.raise i c) :
    RaisesOrCompletes i s :=
  .inl ⟨c, hc, h⟩

theorem RaisesOrCompletes.of_completes (h : exec i s = .next t) (ht : Completes s i t) : RaisesOrCompletes i s :=
  .inr ⟨t, h, ht⟩

/-- The range check of an instruction that uses `I` for `len` bytes decides between the two (R64). -/
theorem RaisesOrCompletes.of_range (hlen : 0 < len)
    (hout : ∀ a, firstInvalid base len = some a → RaisesOrCompletes i s)
    (hin : firstInvalid base len = none → base + len ≤ 0x1000 → RaisesOrCompletes i s) : RaisesOrCompletes i s := by
  cases hrange : firstInvalid base len with
  | some a => exact hout a hrange
  | none => exact hin hrange (((firstInvalid_none_iff base len).1 hrange).resolve_left hlen.ne')

end

/-- Every instruction in every state raises a fault it can report or completes in its shape. -/
theorem exec_raisesOrCompletes (i : Instr) (s : State) : RaisesOrCompletes i s := by
  cases i with
  | nop w => exact .of_completes (exec_nop w s) (.nothing rfl)
  | jpAddr nnn =>
    have hnnn := nnn.isLt
    exact .of_completes (exec_jpAddr nnn s) (.jump (by simp [Instr.symbol]) (by rw [immAddr_toNat]; omega))
  | jpV0Addr nnn =>
    have hnnn := nnn.isLt
    have hv := (s.getV 0).isLt
    exact .of_completes (exec_jpV0Addr nnn s) (.jump (by simp [Instr.symbol])
      (by rw [immAddr_add_byteWord_toNat]; omega))
  | callAddr nnn =>
    have hnnn := nnn.isLt
    obtain hroom | hfull := Nat.lt_or_ge s.stack.length 16
    · exact .of_completes (exec_callAddr_of_room nnn hroom) (.call rfl (by rw [immAddr_toNat]; omega) hroom)
    · exact .of_raise rfl (exec_callAddr_of_full nnn hfull)
  | ret =>
    cases hstack : s.stack with
    | nil => exact .of_raise rfl (exec_ret_of_nil hstack)
    | cons e rest => exact .of_completes (exec_ret_of_cons hstack) (.ret rfl hstack)
  | seVxByte | sneVxByte | seVxVy | sneVxVy => exact .of_completes rfl (.skip _ (by simp [Instr.symbol]))
  | skpVx x =>
    cases hk : nibbleOf (s.getV x) with
    | none => exact .of_raise rfl (exec_skpVx_of_no_key hk)
    | some k => exact .of_completes (exec_skpVx_of_key hk) (.skip _ (by simp [Instr.symbol]))
  | sknpVx x =>
    cases hk : nibbleOf (s.getV x) with
    | none => exact .of_raise rfl (exec_sknpVx_of_no_key hk)
    | some k => exact .of_completes (exec_sknpVx_of_key hk) (.skip _ (by simp [Instr.symbol]))
  | ldVxByte | addVxByte | ldVxVy | ldVxDT =>
    exact .of_completes rfl (.register _ (by simp [Instr.symbol]) beq_iff_eq.2)
  | rndVxByte => exact .of_completes rfl (.random _ rfl beq_iff_eq.2)
  | orVxVy | andVxVy | xorVxVy | addVxVy | subVxVy | subnVxVy | shrVxVy | shlVxVy =>
    exact .of_completes rfl (.flagged _ (by simp [Instr.symbol]))
  | cls => exact .of_completes (exec_cls s) (.clear _ rfl)
  | drwVxVyN x y n =>
    cases hrange : firstInvalid s.i.toNat n.toNat with
    | some a => exact .of_raise rfl (exec_drwVxVyN_of_out_of_range hrange)
    | none => exact .of_completes (exec_drwVxVyN_of_in_range hrange) (.draw _ _ rfl)
  | ldIAddr | addIVx => exact .of_completes rfl (.index _ (by simp [Instr.symbol]))
  | ldFVx x =>
    cases hk : nibbleOf (s.getV x) with
    | none => exact .of_raise rfl (exec_ldFVx_of_no_digit hk)
    | some k => exact .of_completes (exec_ldFVx_of_digit hk) (.index _ (by simp [Instr.symbol]))
  | ldBVx x =>
    exact .of_range (Nat.succ_pos _) (fun a h => .of_raise rfl (exec_ldBVx_of_out_of_range h))
      fun h hfit => .of_completes (exec_ldBVx_of_in_range h) (.digits rfl hfit)
  | ldMemIVx x =>
    exact .of_range (Nat.succ_pos _) (fun a h => .of_raise rfl (exec_ldMemIVx_of_out_of_range h))
      fun h hfit => .of_completes (exec_ldMemIVx_of_in_range h) (.store _ rfl (by rwa [State.regBytes_length]))
  | ldVxMemI x =>
    exact .of_range (Nat.succ_pos _) (fun a h => .of_raise rfl (exec_ldVxMemI_of_out_of_range h))
      fun h _ => .of_completes (exec_ldVxMemI_of_in_range h) (.load _ rfl beq_iff_eq.2)
  | ldDTVx => exact .of_completes rfl (.delayTimer _ rfl)
  | ldSTVx => exact .of_completes rfl (.soundTimer _ rfl)
  | ldVxK x =>
    cases hw : s.waitKey with
    | none =>
      cases hl : s.keyLatch with
      | none => exact .of_completes (exec_ldVxK_of_nothing hw hl) (.wait rfl)
      | some k => exact .of_completes (exec_ldVxK_of_latched hw hl) (.take k rfl)
    | some k =>
      cases hk : s.getKey k with
      | true => exact .of_completes (exec_ldVxK_of_down hw hk) (.wait rfl)
      | false => exact .of_completes (exec_ldVxK_of_up hw hk) (.resolve _ rfl beq_iff_eq.2)

/-- The inversion of `exec`: a next state is the halt of a fault the instruction can report, or a completion. -/
theorem halts_or_completes_of_exec {i : Instr} {s t : State} (h : exec i s = .next t) :
    (∃ c, canRaise i.symbol c = true ∧ t = s.halt c (some (encode i))) ∨ Completes s i t := by
  obtain ⟨c, hc, hraise⟩ | ⟨u, hu, hcompletes⟩ := exec_raisesOrCompletes i s
  · rw [hraise] at h
    cases h
    exact .inl ⟨c, hc, rfl⟩
  · rw [hu] at h
    cases h
    exact .inr hcompletes

/-! ## What the shapes change and keep -/

section
variable {i : Instr} {s t : State}

theorem Completes.status (h : Completes s i t) : t.status = s.status := by
  cases h <;> simp

/-- A special field is written in the shapes of its own writers alone (R24 to R38). -/
theorem Completes.writers (h : Completes s i t) :
    (i.symbol ∉ [.ldIAddr, .addIVx, .ldFVx, .ldMemIVx, .ldVxMemI] → t.i = s.i) ∧
    (i.symbol ∉ [.callAddr, .ret] → t.stack = s.stack) ∧ (i.symbol ≠ .ldDTVx → t.dt = s.dt) ∧
    (i.symbol ≠ .ldSTVx → t.st = s.st) ∧ (i.symbol ∉ [.cls, .drwVxVyN] → t.disp = s.disp) ∧
    (i.symbol ≠ .ldVxK → t.keyLatch = s.keyLatch ∧ t.waitKey = s.waitKey) ∧
    (i.symbol ≠ .rndVxByte → t.randDraws = s.randDraws) ∧ t.key = s.key ∧ t.lastInstr = s.lastInstr ∧
    t.cycleCount = s.cycleCount ∧ t.cyclesPerTick = s.cyclesPerTick ∧ t.input = s.input ∧
    t.displayOut = s.displayOut := by
  cases h with
  | index w hi => exact ⟨fun hn => absurd (List.mem_append_left ([.ldMemIVx, .ldVxMemI] : List Symbol) hi) hn, by simp⟩
  | _ => simp_all

/-- Memory is written in two shapes alone, at valid addresses (R68). -/
theorem Completes.memory (h : Completes s i t) :
    (i.symbol ∉ [.ldBVx, .ldMemIVx] → t.mem = s.mem) ∧ (s.mem.wf → t.mem.wf) := by
  cases h with
  | digits hi hbs | store _ hi hbs => exact ⟨fun hn => absurd hi (by simp_all), fun hwf => Memory.wf_writeBytes hwf hbs⟩
  | _ => simp

/-- VF is written as a flag or as a destination (R22). -/
theorem Completes.vf (h : Completes s i t) (hflag : i.symbol ∉ flagWriters) (hdest : destIsVF i = false) :
    t.getV regVF = s.getV regVF := by
  have other {x : Nibble} (hx : x = regVF → destIsVF i = true) : regVF ≠ x := by
    rintro rfl
    simp [hx rfl] at hdest
  cases h with
  | flagged | draw => simp_all [flagWriters]
  | register b _ hx | random b _ hx | resolve b _ hx => exact s.getV_setV_other b (other hx)
  | @load x _ _ hx =>
    have hne : regVF ≠ x := other hx
    have hlt : x.toNat < regVF.toNat := by bv_omega
    exact s.getV_loadRegs_of_lt s.i.toNat hlt
  | _ => simp

/-- Where `pc` goes, but for the four transfers (R127). -/
theorem Completes.pc (h : Completes s i t) (hi : i.symbol ∉ [.jpAddr, .callAddr, .ret, .jpV0Addr]) :
    t.pc = s.pc + 2#16 ∨
    (i.symbol ∈ [.seVxByte, .sneVxByte, .seVxVy, .sneVxVy, .skpVx, .sknpVx] ∧ t.pc = s.pc + 4#16) ∨
    (i.symbol = .ldVxK ∧ t.pc = s.pc) := by
  cases h with
  | jump hs | call hs | ret hs => simp_all
  | skip c hs => cases c with
    | true => exact .inr (.inl ⟨hs, rfl⟩)
    | false => exact .inl rfl
  | wait hs | take _ hs => exact .inr (.inr ⟨hs, rfl⟩)
  | _ => exact .inl (by simp)

end

/-! ## The statements over all instructions -/

/-- Settles O54: a halt changes the status alone, and a completion writes by its shape. -/
theorem eachSpecialStateHasItsOwnWriters : Obligations.EachSpecialStateHasItsOwnWriters := by
  intro i s t h
  obtain ⟨c, -, rfl⟩ | hcompletes := halts_or_completes_of_exec h
  · simp
  · exact hcompletes.writers

/-- Settles O45: a halt keeps memory, and a completion writes it by its shape. -/
theorem onlyTwoInstructionsWriteMemory : Obligations.OnlyTwoInstructionsWriteMemory := by
  intro i s t h
  obtain ⟨c, -, rfl⟩ | hcompletes := halts_or_completes_of_exec h
  · exact ⟨fun _ => rfl, id⟩
  · exact hcompletes.memory

/-- Settles O39: a halt keeps the registers, and a completion writes VF as a flag or as a destination. -/
theorem onlyFlagInstructionsWriteVFAsAFlag : Obligations.OnlyFlagInstructionsWriteVFAsAFlag := by
  intro i s t h hflag hdest
  obtain ⟨c, -, rfl⟩ | hcompletes := halts_or_completes_of_exec h
  · rfl
  · exact hcompletes.vf hflag hdest

/-- Settles O30: the machine still runs, so the instruction completed, and its shape says where `pc` went. -/
theorem programCounterAdvancesUniformly : Obligations.ProgramCounterAdvancesUniformly := by
  intro i s t h _ hrun hi
  obtain ⟨c, -, rfl⟩ | hcompletes := halts_or_completes_of_exec h
  · cases hrun
  · exact hcompletes.pc hi

/-- Settles O55: a completion keeps the status, so only the halt of a fault is left; the cycle stops at it. -/
theorem faultsArePrecise : Obligations.FaultsArePrecise := by
  intro i s t hrun h hhalted
  obtain ⟨c, hc, rfl⟩ | hcompletes := halts_or_completes_of_exec h
  · exact ⟨⟨c, hc, rfl⟩, by rw [h]; rfl⟩
  · exact absurd (hcompletes.status.trans hrun) hhalted

end Sys2Proof.Machine

/-! PROOFS. The cycle around the instruction (R121 to R131): how its input commutes with the fields it does not see, the
ways in which it ends, and the statements about every step and every run. -/

namespace Sys2Proof.Machine

/-! ## The input of a cycle (R122) -/

/-- A change of the state that every event commutes with commutes with all the events of a cycle. -/
theorem State.applyEvents_comm {f : State → State} (hf : ∀ s e, (f s).applyEvent e = f (s.applyEvent e)) (s : State)
    (es : List InputEvent) : (f s).applyEvents es = f (s.applyEvents es) := by
  induction es generalizing s with
  | nil => rfl
  | cons e es ih =>
    cases e with
    | quit => exact hf s .quit
    | keyDown k => exact (congrArg (State.applyEvents · es) (hf s _)).trans (ih _)
    | keyUp k => exact (congrArg (State.applyEvents · es) (hf s _)).trans (ih _)

theorem State.popInput_applyEvents (s : State) (es : List InputEvent) :
    s.popInput.applyEvents es = (s.applyEvents es).popInput :=
  State.applyEvents_comm (f := State.popInput) (fun _ e => by cases e <;> rfl) s es

/-! ## The rest of the cycle, by what ends it (R123, R130, R131) -/

/-- The step of a running machine is the cycle after its input. -/
theorem step_of_running {s : State} (h : s.status = .running) : step s = cycleAfterInput s.applyInput := by
  simp only [step, h]

theorem cycleAfterInput_of_halted {s : State} (h : s.isHalted = true) : cycleAfterInput s = .next s := if_pos h

theorem cycleAfterInput_of_fetchFault {s : State} {a : Nat} (h : s.isHalted = false) (hf : s.fetchFault = some a) :
    cycleAfterInput s = .next (s.halt (.addressOutOfRange a) none) := by
  simp [cycleAfterInput, h, hf]

theorem cycleAfterInput_of_fetched {s : State} (h : s.isHalted = false) (hf : s.fetchFault = none) :
    cycleAfterInput s = finishCycle (decode s.fetchWord).symbol (exec (decode s.fetchWord) s) := by
  simp [cycleAfterInput, h, hf]

theorem finishCycle_of_halted {s : State} (h : s.isHalted = true) (y : Symbol) :
    finishCycle y (.next s) = .next s := by
  simp only [finishCycle, h, if_true]

theorem finishCycle_of_running {s : State} (h : s.isHalted = false) (y : Symbol) :
    finishCycle y (.next s) = .next (s.endCycle y) := by
  simp [finishCycle, h]

/-- Settles O12: the quit halts the state that the earlier events left, and the cycle ends there. -/
theorem quitHaltsBeforeTheFetch : Obligations.QuitHaltsBeforeTheFetch := by
  intro s pre post later hrun hpre hinput
  have happly : s.applyInput = ((s.applyEvents pre).popInput).halt .quit none := by
    rw [State.applyInput, State.cycleEvents, hinput, List.headD_cons, State.applyEvents_quit _ post hpre,
      State.popInput_applyEvents]
  have hpc : (s.applyEvents pre).pc = s.pc := by rw [s.applyEvents_frame]
  refine ⟨s.applyInput, ?_, ?_, ?_⟩
  · rw [step_of_running hrun, cycleAfterInput_of_halted (by rw [happly]; rfl)]
  · rw [happly, State.halt_status, State.popInput_pc, hpc]
  · have hlater : s.input.tail = later := by rw [hinput]; rfl
    rw [s.applyInput_frame, hlater, happly]
    rfl

/-- Settles O13: the cycle halts at its fetch, after its input. -/
theorem fetchAboveTheTopHalts : Obligations.FetchAboveTheTopHalts := by
  intro s hrun hquit hpc
  refine ⟨_, step_of_fetch_above hrun hquit hpc, ?_, ?_, rfl, rfl⟩
  · rw [State.halt_status, State.applyInput_pc]
  · rw [s.applyInput_frame]; rfl

/-! ## The keypad after the events of a cycle (R280, R281) -/

/-- The key an event latches, if any. -/
def InputEvent.latched : InputEvent → Option Nibble
  | .keyDown k => some k
  | _ => none

/-- The level an event gives to key `k`, if any. -/
def InputEvent.level (k : Nibble) : InputEvent → Option Bool
  | .keyDown j => if j = k then some true else none
  | .keyUp j => if j = k then some false else none
  | .quit => none

/-- The last value of a list of events in order is that of the first event unless a later one has a value. -/
theorem getLast?_filterMap_cons {α : Type} (f : InputEvent → Option α) (e : InputEvent) (es : List InputEvent) :
    ((e :: es).filterMap f).getLast? = ((es.filterMap f).getLast?).or (f e) := by
  rw [List.filterMap_cons]
  cases f e with
  | none => exact (Option.or_none).symm
  | some a => rw [List.getLast?_cons]; cases (es.filterMap f).getLast? <;> rfl

section
variable (s : State) {es : List InputEvent}

theorem State.applyEvents_cons {e : InputEvent} (h : e ≠ .quit) :
    s.applyEvents (e :: es) = (s.applyEvent e).applyEvents es := by
  cases e with
  | quit => exact absurd rfl h
  | keyDown | keyUp => rfl

theorem State.keyLatch_applyEvents (h : .quit ∉ es) :
    (s.applyEvents es).keyLatch = ((es.filterMap InputEvent.latched).getLast?).or s.keyLatch := by
  induction es generalizing s with
  | nil => rfl
  | cons e es ih =>
    obtain ⟨he, hes⟩ := not_or.1 (mt List.mem_cons.2 h)
    rw [s.applyEvents_cons (Ne.symm he), ih _ hes, getLast?_filterMap_cons, Option.or_assoc]
    cases e with
    | quit => exact absurd rfl he
    | keyDown | keyUp => rfl

theorem State.getKey_applyEvents (h : .quit ∉ es) (k : Nibble) :
    (s.applyEvents es).getKey k = ((es.filterMap (InputEvent.level k)).getLast?).getD (s.getKey k) := by
  induction es generalizing s with
  | nil => rfl
  | cons e es ih =>
    obtain ⟨he, hes⟩ := not_or.1 (mt List.mem_cons.2 h)
    have hlevel : (s.applyEvent e).getKey k = (e.level k).getD (s.getKey k) := by
      cases e with
      | quit => exact absurd rfl he
      | keyDown j | keyUp j =>
        simp only [State.applyEvent, State.setKeyLatch_getKey, State.getKey_setKey, InputEvent.level, eq_comm (a := k)]
        split <;> rfl
    rw [s.applyEvents_cons (Ne.symm he), ih _ hes, getLast?_filterMap_cons, hlevel]
    cases (es.filterMap (InputEvent.level k)).getLast? <;> rfl

end

/-- Settles O16: by induction on the events, the last one that concerns a key or the latch decides. -/
theorem latchHoldsTheLastKeyDown : Obligations.LatchHoldsTheLastKeyDown := by
  rintro s t es hquit rfl
  refine ⟨s.keyLatch_applyEvents hquit, s.getKey_applyEvents hquit, ?_⟩
  have hframe := s.applyEvents_frame es
  rwa [s.applyEvents_status hquit] at hframe

/-! ## The ends of a cycle -/

/-- Every instruction in every state answers a next state. -/
theorem exec_answers (i : Instr) (s : State) : ∃ t, exec i s = .next t := by
  obtain ⟨c, -, h⟩ | ⟨t, h, -⟩ := exec_raisesOrCompletes i s
  · exact ⟨_, h⟩
  · exact ⟨t, h⟩

theorem cycleAfterInput_answers (s : State) : ∃ t, cycleAfterInput s = .next t := by
  cases h : s.isHalted with
  | true => exact ⟨_, cycleAfterInput_of_halted h⟩
  | false =>
    cases hf : s.fetchFault with
    | some a => exact ⟨_, cycleAfterInput_of_fetchFault h hf⟩
    | none =>
      obtain ⟨u, hu⟩ := exec_answers (decode s.fetchWord) s
      exact ⟨_, (cycleAfterInput_of_fetched h hf).trans (congrArg (finishCycle _) hu)⟩

/-- Settles O11: each of the three ways in which a running cycle goes on ends in a next state. -/
theorem everyRunningStepAnswersANextState : Obligations.EveryRunningStepAnswersANextState := by
  refine ⟨exec_answers, fun s hrun => ?_, fun s d hhalted => by simp only [step, hhalted]⟩
  rw [step_of_running hrun]
  exact cycleAfterInput_answers _

/-- Settles O8: without a quit and with a valid fetch nothing ends the cycle before its instruction. -/
theorem stepRunsTheDecodedInstruction : Obligations.StepRunsTheDecodedInstruction := by
  rintro s i hrun hquit hpc rfl
  have hstep := step_of_fetched hrun hquit hpc
  exact ⟨hstep, fun u hu => hstep.trans (congrArg (finishCycle _) hu)⟩

/-- Settles O9: one field of the end of the cycle after the other; a due tick is both timers and the count at once. -/
theorem endOfCycleRecordsPublishesCountsAndClears : Obligations.EndOfCycleRecordsPublishesCountsAndClears := by
  rintro s t y rfl
  refine ⟨rfl, rfl, fun hy => if_pos hy, fun hy => if_neg hy, fun hdue => ?_, fun hdue => ?_, rfl⟩
  · have htick : s.tickDue = true := s.tickDue_iff.2 hdue
    exact ⟨if_pos htick, (s.endCycle_dt_toNat y).trans (if_pos hdue), (s.endCycle_st_toNat y).trans (if_pos hdue)⟩
  · have htick : ¬ s.tickDue = true := mt s.tickDue_iff.1 hdue
    exact ⟨if_neg htick, if_neg htick, if_neg htick⟩

/-- The two ends of a cycle: a halt, which keeps all but what the input changed, or a completed instruction and the end
of the cycle. -/
theorem step_halts_or_completes {s t : State} (h : step s = .next t) :
    (t.status ≠ .running ∧
      t = { s with key := t.key, keyLatch := t.keyLatch, input := s.input.tail, status := t.status }) ∨
    (s.fetchFault = none ∧ ∃ u, Completes s.applyInput (decode s.fetchWord) u ∧ u.status = .running ∧
      t = u.endCycle (decode s.fetchWord).symbol) := by
  obtain ⟨-, ⟨hquit, rfl⟩ | ⟨-, a, -, rfl⟩ | ⟨hinput, hfetch, u, hu, hend⟩⟩ := step_cases h
  · exact .inl ⟨(State.isHalted_iff _).1 hquit, s.applyInput_frame⟩
  · refine .inl ⟨Status.noConfusion, ?_⟩
    rw [s.applyInput_frame]; rfl
  · have hrun : s.applyInput.status = .running := (State.isHalted_eq_false _).1 hinput
    obtain ⟨c, -, rfl⟩ | hcompletes := halts_or_completes_of_exec hu
    · obtain ⟨-, rfl⟩ | ⟨hfalse, -⟩ := hend
      · refine .inl ⟨Status.noConfusion, ?_⟩
        rw [s.applyInput_frame]; rfl
      · cases hfalse
    · have hurun : u.status = .running := hcompletes.status.trans hrun
      obtain ⟨hhalted, -⟩ | ⟨-, ht⟩ := hend
      · exact absurd hurun ((State.isHalted_iff u).1 hhalted)
      · exact .inr ⟨hfetch, u, hcompletes, hurun, ht⟩

/-- Settles O14: no halt and no instruction writes the display port, and the end of a cycle does so for `DRW`. -/
theorem onlyADrawCyclePublishes : Obligations.OnlyADrawCyclePublishes := by
  intro s t h
  obtain ⟨hhalted, hframe⟩ | ⟨-, u, hcompletes, hurun, rfl⟩ := step_halts_or_completes h
  · exact ⟨fun hdraw => absurd hdraw.1 hhalted, fun _ => by rw [hframe]⟩
  · have hsent : u.displayOut = s.displayOut := by
      obtain ⟨-, -, -, -, -, -, -, -, -, -, -, -, hsent⟩ := hcompletes.writers
      rw [hsent, State.applyInput_displayOut]
    rw [State.endCycle_status, State.endCycle_displayOut, State.endCycle_disp, hsent]
    exact ⟨fun hdraw => if_pos hdraw.2, fun hdraw => if_neg fun hy => hdraw ⟨hurun, hy⟩⟩

/-! ## The count over a run (R128, R277) -/

/-- A cycle after which the machine still runs counts one, mod the period, and keeps the period. -/
theorem cycleCount_of_step {s t : State} (hcount : s.cycleCount < s.cyclesPerTick) (h : step s = .next t)
    (hrun : t.status = .running) :
    t.cyclesPerTick = s.cyclesPerTick ∧ t.cycleCount = (s.cycleCount + 1) % s.cyclesPerTick := by
  obtain ⟨hhalted, -⟩ | ⟨-, u, hcompletes, -, rfl⟩ := step_halts_or_completes h
  · exact absurd hrun hhalted
  · obtain ⟨-, -, -, -, -, -, -, -, -, hcycle, hperiod, -, -⟩ := hcompletes.writers
    rw [State.applyInput_cycleCount] at hcycle
    rw [State.applyInput_cyclesPerTick] at hperiod
    refine ⟨hperiod, ?_⟩
    simp only [State.endCycle_cycleCount, State.tickDue_iff, hcycle, hperiod]
    split
    case isTrue hdue => rw [hdue, Nat.mod_self]
    case isFalse hdue => exact (Nat.mod_eq_of_lt (by omega)).symm

/-- A run of one more cycle is a step and a run. -/
theorem run_succ {n : Nat} {s t : State} (h : Sys2Proof.core.run (n + 1) s = .next t) :
    ∃ u, step s = .next u ∧ Sys2Proof.core.run n u = .next t := by
  simp only [Host.Core.run] at h
  cases hs : Sys2Proof.core.step s with
  | next u => rw [hs] at h; exact ⟨u, hs, h⟩
  | fault r => rw [hs] at h; cases h
  | refused r => rw [hs] at h; cases h

/-- A machine that still runs after `n` cycles ran before them. -/
theorem running_of_run {n : Nat} {s t : State} (h : Sys2Proof.core.run n s = .next t) (hrun : t.status = .running) :
    s.status = .running := by
  cases n with
  | zero => cases h; exact hrun
  | succ n =>
    obtain ⟨u, hstep, -⟩ := run_succ h
    exact (step_cases hstep).1

/-- Settles O15: by induction on the number of cycles, each of which counts one mod the period. -/
theorem tickCountFollowsTheCycleNumber : Obligations.TickCountFollowsTheCycleNumber := by
  intro n
  induction n with
  | zero =>
    intro s t hcount h _
    cases h
    exact ⟨rfl, (Nat.mod_eq_of_lt hcount).symm⟩
  | succ n ih =>
    intro s t hcount h hrun
    obtain ⟨u, hstep, hrest⟩ := run_succ h
    obtain ⟨hperiod, hone⟩ := cycleCount_of_step hcount hstep (running_of_run hrest hrun)
    have hu : u.cycleCount < u.cyclesPerTick := by
      rw [hone, hperiod]
      exact Nat.mod_lt _ (by omega)
    obtain ⟨hperiod', hcycles⟩ := ih u t hu hrest hrun
    refine ⟨hperiod'.trans hperiod, ?_⟩
    rw [hcycles, hone, hperiod, Nat.mod_add_mod, Nat.add_assoc, Nat.add_comm 1 n]

/-! ## The invariants (R25, R37) -/

section
variable {i : Instr} {s t : State}

/-- `CALL` pushes on at most 15 entries (R262). -/
theorem Completes.stack_length (h : Completes s i t) (hs : s.stack.length ≤ 16) : t.stack.length ≤ 16 := by
  cases h with
  | call _ _ hroom => exact hroom
  | ret _ hstack => rw [hstack] at hs; exact Nat.le_of_succ_le hs
  | _ => simpa using hs

/-- After an instruction a key is waited for only where the instruction was a poll, which has kept its place (R243). -/
theorem Completes.waiting (h : Completes s i t) (hs : s.waitKey ≠ none → i.symbol = .ldVxK) (ht : t.waitKey ≠ none) :
    i.symbol = .ldVxK ∧ t.pc = s.pc ∧ t.mem = s.mem := by
  cases h with
  | wait hi | take _ hi => exact ⟨hi, rfl, rfl⟩
  | resolve => exact absurd rfl ht
  | _ => simp_all

/-- An instruction at a valid address sets no `pc` above 0x10FE, and no return address is above 0x1000 (R25). -/
theorem Completes.pcBound (h : Completes s i t) (hs : s.PcBound) (hpc : s.pc.toNat ≤ 0xFFE) : t.PcBound := by
  have hnext : (s.pc + 2#16).toNat ≤ 0x1000 := by bv_omega
  have hskip : (s.pc + 4#16).toNat ≤ 0x10FE := by bv_omega
  have hadvance : (s.pc + 2#16).toNat ≤ 0x10FE := hnext.trans (by decide)
  cases h with
  | jump _ hw => exact ⟨hw, hs.stack⟩
  | call _ hw => exact ⟨hw.trans (by decide), List.forall_mem_cons.2 ⟨hnext, hs.stack⟩⟩
  | ret _ hstack =>
    obtain ⟨he, hrest⟩ := List.forall_mem_cons.1 (hstack ▸ hs.stack)
    exact ⟨he.trans (by decide), hrest⟩
  | skip c => exact ⟨by cases c <;> assumption, hs.stack⟩
  | wait | take => exact ⟨hs.pc, hs.stack⟩
  | _ => exact ⟨by simpa using hadvance, by simpa using hs.stack⟩

end

theorem Instr.symbol_eq_ldVxK_iff {i : Instr} : i.symbol = .ldVxK ↔ ∃ x, i = .ldVxK x := by
  cases i <;> simp [Instr.symbol]

theorem State.atWaitInstruction_iff (s : State) :
    s.AtWaitInstruction ↔ s.fetchFault = none ∧ (decode s.fetchWord).symbol = .ldVxK := by
  rw [Instr.symbol_eq_ldVxK_iff, State.fetchFault, firstInvalid_none_iff, State.AtWaitInstruction]
  refine and_congr_left fun _ => ?_
  simp only [Config.maxAddress]
  omega

/-- The invariant lets go of the latch in a halted machine, and never looks at the keypad and the ports. -/
theorem State.Inv.of_halt {s : State} (h : s.Inv) (key : Vector Bool 16) (latch : Option Nibble)
    (input : List (List InputEvent)) {status : Status} (hstatus : status ≠ .running) :
    { s with key := key, keyLatch := latch, input := input, status := status }.Inv :=
  ⟨h.memory, h.stack, h.count, fun hrun => absurd hrun hstatus, h.waiting⟩

/-- The memory and the stack by their shapes, the count by the end of the cycle, which clears the latch; a key is waited
for only where a poll has kept the `pc`. -/
theorem State.Inv.of_completes {s u : State} (h : s.Inv) (hfetch : s.fetchFault = none)
    (hu : Completes s.applyInput (decode s.fetchWord) u) : (u.endCycle (decode s.fetchWord).symbol).Inv where
  memory := hu.memory.2 (s.applyInput_mem ▸ h.memory)
  stack := hu.stack_length (s.applyInput_stack ▸ h.stack)
  count := by
    obtain ⟨-, -, -, -, -, -, -, -, -, hcycle, hperiod, -, -⟩ := hu.writers
    have hcount := h.count
    simp only [State.endCycle_cycleCount, State.endCycle_cyclesPerTick, State.tickDue_iff, hcycle, hperiod,
      State.applyInput_cycleCount, State.applyInput_cyclesPerTick]
    split <;> omega
  latch _ := rfl
  waiting hw := by
    have hpoll : s.applyInput.waitKey ≠ none → (decode s.fetchWord).symbol = .ldVxK := by
      rw [State.applyInput_waitKey]
      exact fun hs => ((s.atWaitInstruction_iff).1 (h.waiting hs)).2
    obtain ⟨hi, hpc, hmem⟩ := hu.waiting hpoll hw
    rw [State.applyInput_pc] at hpc
    rw [State.applyInput_mem] at hmem
    have hat := (s.atWaitInstruction_iff).2 ⟨hfetch, hi⟩
    unfold State.AtWaitInstruction State.fetchWord at hat ⊢
    rwa [State.endCycle_pc, State.endCycle_mem, hpc, hmem]

/-- Settles O22: a cycle ends in a halt or with its instruction completed, and both keep the invariant. -/
theorem everyStepKeepsTheInvariant : Obligations.EveryStepKeepsTheInvariant := by
  intro s t hinv h
  obtain ⟨hhalted, hframe⟩ | ⟨hfetch, u, hu, -, rfl⟩ := step_halts_or_completes h
  · rw [hframe]
    exact hinv.of_halt _ _ _ hhalted
  · exact hinv.of_completes hfetch hu

/-- Settles O23: a halt keeps `pc` and the stack, and an instruction that was fetched lies at 0xFFE or below. -/
theorem everyStepKeepsTheProgramCounterBound : Obligations.EveryStepKeepsTheProgramCounterBound := by
  intro s t hbound h
  obtain ⟨-, hframe⟩ | ⟨hfetch, u, hu, -, rfl⟩ := step_halts_or_completes h
  · rw [hframe]
    exact ⟨hbound.pc, hbound.stack⟩
  · have hpc : s.applyInput.pc.toNat ≤ 0xFFE := by
      rw [State.applyInput_pc]
      have hvalid := (firstInvalid_none_iff _ _).1 hfetch
      simp only [Config.maxAddress] at hvalid
      omega
    have hinput : s.applyInput.PcBound := ⟨s.applyInput_pc ▸ hbound.pc, s.applyInput_stack ▸ hbound.stack⟩
    obtain ⟨hpcs, hstack⟩ := hu.pcBound hinput hpc
    exact ⟨hpcs, hstack⟩

end Sys2Proof.Machine

/-! PROOFS. Single instructions: the copy and the random byte (R182, R191), the font address (R202), the key skips and
the poll (R240 to R243), a store that the next fetch sees (R75), and a sprite drawn twice (R226). -/

namespace Sys2Proof.Machine

/-! ## Registers (R182, R191) -/

theorem exec_ldVxVy (x y : Nibble) (s : State) : exec (.ldVxVy x y) s = .next (s.setV x (s.getV y)).advance := rfl

theorem exec_rndVxByte (x : Nibble) (kk : Byte) (s : State) :
    exec (.rndVxByte x kk) s = .next ((s.setV x (Config.randomByte s.randDraws &&& kk)).drawn).advance := rfl

/-- Settles O32: one register write and the advance. -/
theorem copyWritesOneRegister : Obligations.CopyWritesOneRegister := by
  intro x y s
  exact ⟨rfl, _, exec_ldVxVy x y s, s.writesV_setV x (s.getV y)⟩

/-- Settles O38: a bit of the masked byte is a bit of the draw and of the mask. -/
theorem randomByteIsMasked : Obligations.RandomByteIsMasked := by
  intro x kk s
  have hv : ((s.setV x (Config.randomByte s.randDraws &&& kk)).drawn).advance.getV x =
      Config.randomByte s.randDraws &&& kk := State.getV_setV_same s x _
  refine ⟨rfl, _, exec_rndVxByte x kk s, hv, fun k _ hk => ?_, fun r hr => State.getV_setV_other s _ hr, rfl⟩
  rw [hv, BitVec.getLsbD_and, hk, Bool.and_false]

/-! ## Register-held indices (R202, R240, R241) -/

/-- Settles O41: the digit is the whole register or none. -/
theorem fontAddressOrHalt : Obligations.FontAddressOrHalt := by
  intro x s
  refine ⟨rfl, fun hdigit => ?_, fun hhigh => ?_⟩
  · have hbyte : (nibbleByte ((s.getV x).truncate 4)).toNat = (s.getV x).toNat := by
      rw [nibbleByte_toNat, BitVec.toNat_setWidth, Nat.mod_eq_of_lt (Nat.lt_succ_of_le hdigit)]
    refine ⟨_, exec_ldFVx_of_digit (nibbleOf_le hdigit), ?_, rfl⟩
    rw [State.advance_i, State.setI_i, fontAddr_toNat, hbyte]
  · rw [exec_ldFVx_of_no_digit (nibbleOf_gt hhigh)]
    exact s.raise_haltsWith _ _

/-- Settles O51: the key is the whole register or none; the skips test its level and the negation of its level. -/
theorem keySkipsTestTheLevel : Obligations.KeySkipsTestTheLevel := by
  intro x k s
  refine ⟨rfl, rfl, fun hk => ?_, fun hhigh => ?_⟩
  · rw [exec_skpVx_of_key (nibbleOf_eq hk), exec_sknpVx_of_key (nibbleOf_eq hk)]
    cases s.getKey k <;> exact ⟨rfl, rfl⟩
  · rw [exec_skpVx_of_no_key (nibbleOf_gt hhigh), exec_sknpVx_of_no_key (nibbleOf_gt hhigh)]
    exact ⟨s.raise_haltsWith _ _, s.raise_haltsWith _ _⟩

/-- Settles O52: the four outcomes of a poll. -/
theorem waitForKeyTakesThenResolves : Obligations.WaitForKeyTakesThenResolves := by
  intro x s
  refine ⟨rfl, exec_ldVxK_of_nothing, fun k => exec_ldVxK_of_latched, fun k => exec_ldVxK_of_down, fun k hw hup => ?_⟩
  refine ⟨_, exec_ldVxK_of_up hw hup, ?_, fun r hr => State.getV_setV_other s _ hr, rfl⟩
  exact (congrArg BitVec.toNat (State.getV_setV_same s x (nibbleByte k))).trans (nibbleByte_toNat k)

/-! ## A store at the next `pc` (R75) -/

/-- Settles O47: the machine still runs, so the range check passed and both fetched bytes are stored registers. -/
theorem aStoreIsSeenByTheNextFetch : Obligations.AStoreIsSeenByTheNextFetch := by
  intro x k k' s t h _ hrun hk hle hpc
  cases hrange : firstInvalid s.i.toNat (x.toNat + 1) with
  | some a =>
    rw [exec_ldMemIVx_of_out_of_range hrange] at h
    cases h
    cases hrun
  | none =>
    rw [exec_ldMemIVx_of_in_range hrange] at h
    cases h
    have hnext : s.i.toNat + k.toNat + 1 = s.i.toNat + k'.toNat := by omega
    rw [State.fetchWord, wordOfBytes_toNat, hpc, hnext]
    exact congrArg₂ (fun hi lo : Byte => hi.toNat * 256 + lo.toNat)
      (Memory.read_writeBytes_regBytes s.mem s.i.toNat s (by omega))
      (Memory.read_writeBytes_regBytes s.mem s.i.toNat s (by omega))

/-! ## A sprite drawn twice (R226) -/

section
variable {s : State} {x y n : Nibble} {r c col row : Nat}

/-- The state after a draw of a sprite whose bytes exist. -/
def State.drawnSprite (s : State) (x y n : Nibble) : State :=
  ((s.setDisp (s.spriteCanvas x y n).disp).setV regVF (flagByte (s.spriteCanvas x y n).coll)).advance

theorem State.drawnSprite_vf (s : State) (x y n : Nibble) :
    (s.drawnSprite x y n).getV regVF = flagByte (s.spriteCanvas x y n).coll :=
  State.getV_setV_same _ regVF _

/-- A draw at coordinates held outside VF leaves them as they are. -/
theorem State.drawnSprite_getV (hx : x ≠ regVF) (p q n : Nibble) : (s.drawnSprite p q n).getV x = s.getV x :=
  State.getV_setV_other _ _ hx

/-- The second draw puts the same bits on the cells that the first put there. -/
theorem State.spriteCanvas_drawnSprite (hx : x ≠ regVF) (hy : y ≠ regVF) :
    (s.drawnSprite x y n).spriteCanvas x y n =
      drawRows (s.originCol x) (s.originRow y) (s.mem.readBytes s.i.toNat n.toNat)
        ⟨(s.spriteCanvas x y n).disp, false⟩ := by
  have hcol : (s.drawnSprite x y n).originCol x = s.originCol x := by
    rw [State.originCol, State.drawnSprite_getV hx, State.originCol]
  have hrow : (s.drawnSprite x y n).originRow y = s.originRow y := by
    rw [State.originRow, State.drawnSprite_getV hy, State.originRow]
  rw [State.spriteCanvas, hcol, hrow]
  rfl

theorem State.spriteAt_drawnSprite (hx : x ≠ regVF) (hy : y ≠ regVF) :
    (s.drawnSprite x y n).spriteAt x y n r c col row ↔ s.spriteAt x y n r c col row := by
  rw [State.spriteAt, State.drawnSprite_getV hx, State.drawnSprite_getV hy, State.spriteAt]

/-- Two exclusive ors with one bit cancel. -/
theorem State.spriteCanvas_twice (hx : x ≠ regVF) (hy : y ≠ regVF) :
    ((s.drawnSprite x y n).spriteCanvas x y n).disp = s.disp := by
  refine Display.ext_get fun col row _ _ => ?_
  rw [State.spriteCanvas_drawnSprite hx hy, drawRows_get, State.spriteCanvas, drawRows_get, Bool.xor_assoc,
    Bool.xor_self, Bool.xor_false]

/-- The second draw collides where the first set a clear cell. -/
theorem State.spriteCanvas_twice_coll_iff (hx : x ≠ regVF) (hy : y ≠ regVF) :
    ((s.drawnSprite x y n).spriteCanvas x y n).coll = true ↔ ∃ r c col row, s.spriteAt x y n r c col row ∧
      s.spriteBit r c = true ∧ s.disp.cell (64 * row + col) = false := by
  rw [State.spriteCanvas_coll_iff]
  refine exists_congr fun r => exists_congr fun c => exists_congr fun col => exists_congr fun row => ?_
  rw [State.spriteAt_drawnSprite hx hy]
  refine and_congr_right fun hat => and_congr_right fun hbit => ?_
  have hbit' : s.spriteBit r c = true := hbit
  have hcell : (s.drawnSprite x y n).disp.cell (64 * row + col) = (s.disp.cell (64 * row + col) ^^ s.spriteBit r c) :=
    State.spriteCanvas_cell_of_spriteAt hat
  rw [hcell, hbit', Bool.xor_true, Bool.not_eq_true']

theorem flagByte_eq_one_iff (f : Bool) : flagByte f = 1 ↔ f = true := by
  cases f <;> decide

end

/-- Settles O50: both draws pass the same range check, and the second undoes the first cell by cell. -/
theorem drawingTwiceRestoresTheDisplay : Obligations.DrawingTwiceRestoresTheDisplay := by
  intro x y n s hx hy hrange
  have hfit : firstInvalid s.i.toNat n.toNat = none := (firstInvalid_none_iff _ _).2 hrange
  refine ⟨s.drawnSprite x y n, (s.drawnSprite x y n).drawnSprite x y n, exec_drwVxVyN_eq_spriteCanvas hfit,
    exec_drwVxVyN_eq_spriteCanvas (s := s.drawnSprite x y n) hfit, State.spriteCanvas_twice hx hy, ?_⟩
  rw [State.drawnSprite_vf, flagByte_eq_one_iff]
  exact State.spriteCanvas_twice_coll_iff hx hy

end Sys2Proof.Machine

/-! PROOFS. The data a machine is made of: the canonical form of memory (R60), the events of the bridge (R279, R282), and
the states that reset and creation give (R41, R300 to R302). -/

namespace Sys2Proof.Machine

/-! ## The canonical form of memory (R60) -/

/-- With rising addresses a listed cell is what its address reads as. -/
theorem Memory.read_of_mem {m : Memory} (hm : m.Pairwise (fun c d => c.1 < d.1)) {c : Host.Cell} (hc : c ∈ m) :
    m.read c.1 = c.2 := by
  induction m with
  | nil => cases hc
  | cons d m ih =>
    obtain ⟨hd, hm⟩ := List.pairwise_cons.1 hm
    rw [Memory.read_cons]
    obtain rfl | hc := List.mem_cons.1 hc
    · exact if_pos rfl
    · rw [if_neg (hd c hc).ne', ih hm hc]

/-- An address that does not read as unlisted is listed, with the byte it reads as. -/
theorem Memory.mem_of_read_ne_unlisted {m : Memory} {a : Nat} (h : m.read a ≠ Memory.unlisted a) :
    (a, m.read a) ∈ m := by
  induction m with
  | nil => exact absurd rfl h
  | cons d m ih =>
    rw [Memory.read_cons] at h ⊢
    split at h
    case isTrue ha => rw [if_pos ha, ha]; exact List.mem_cons_self
    case isFalse ha => rw [if_neg ha]; exact List.mem_cons_of_mem _ (ih h)

/-- A cell of a memory in canonical form is listed in every memory that reads alike. -/
theorem Memory.mem_of_reads_alike {m n : Memory} (hm : m.wf) (h : ∀ a, a ≤ 0xFFF → m.read a = n.read a) {c : Host.Cell}
    (hc : c ∈ m) : c ∈ n := by
  obtain ⟨hrising, hcells⟩ := hm
  obtain ⟨hvalid, hlisted⟩ := hcells c hc
  have hread : n.read c.1 = c.2 := by rw [← h c.1 hvalid, Memory.read_of_mem hrising hc]
  rw [← hread] at hlisted
  have hmem := Memory.mem_of_read_ne_unlisted hlisted
  rwa [hread] at hmem

/-- Settles O46: the two list the same cells, both by rising address. -/
theorem memoriesThatReadAlikeAreEqual : Obligations.MemoriesThatReadAlikeAreEqual := by
  intro m n hm hn h
  have : Std.Irrefl (fun c d : Host.Cell => c.1 < d.1) := ⟨fun c => Nat.lt_irrefl c.1⟩
  have : Std.Antisymm (fun c d : Host.Cell => c.1 < d.1) := ⟨fun c d hcd hdc => absurd hcd (Nat.lt_asymm hdc)⟩
  exact hm.1.eq_of_mem_iff hn.1 fun c => ⟨Memory.mem_of_reads_alike hm h,
    Memory.mem_of_reads_alike hn fun a ha => (h a ha).symm⟩

/-! ## The bridge (R279, R282) -/

theorem keyPause_gt : 15 < Config.keyPause := Nat.lt_add_right _ (by decide)

theorem keyQuit_gt : 15 < Config.keyQuit := by
  unfold Config.keyQuit; split <;> omega

theorem keyPause_ne_keyQuit : Config.keyPause ≠ Config.keyQuit := by
  unfold Config.keyPause Config.keyQuit; split <;> omega

/-- The two event classes of a key take the same codes. -/
theorem BridgeInput.event_of_code_gt {c : EventClass} (hc : c ∈ [EventClass.keyDown, EventClass.keyUp]) {n : Nat}
    (hn : 15 < n) : (BridgeInput.message c n).event = if n = Config.keyPause then none else some .quit := by
  obtain rfl | rfl : c = .keyDown ∨ c = .keyUp := by simpa using hc
  all_goals exact if_neg (Nat.not_le.2 hn)

/-- Settles O17: a code up to 15 is a key, and of those above only the pause code is no quit. -/
theorem bridgeMessagesBecomeEvents : Obligations.BridgeMessagesBecomeEvents := by
  refine ⟨fun k => ?_, keyPause_gt, keyQuit_gt, keyPause_ne_keyQuit, fun c hc => ⟨?_, ?_, fun n hn hpause => ?_⟩,
    fun _ _ => rfl, rfl⟩
  · have hk : k.toNat ≤ 0xF := Nat.le_of_lt_succ k.isLt
    simp [BridgeInput.event, hk]
  · rw [BridgeInput.event_of_code_gt hc keyPause_gt, if_pos rfl]
  · rw [BridgeInput.event_of_code_gt hc keyQuit_gt, if_neg keyPause_ne_keyQuit.symm]
  · rw [BridgeInput.event_of_code_gt hc hn, if_neg hpause]

/-! ## Reset (R41) -/

/-- Above the font an unlisted address reads as 0. -/
theorem Memory.unlisted_of_ge {a : Nat} (h : 0x050 ≤ a) : Memory.unlisted a = 0 := List.getD_eq_default _ _ h

/-- Settles O18: each field of the reset state, whose memory lists nothing. -/
theorem resetLeavesTheStatedValues : Obligations.ResetLeavesTheStatedValues := by
  refine ⟨fun r => Vector.getElem_replicate r.isLt, rfl, rfl, rfl, rfl, rfl, fun c _ => Display.cell_blank c,
    fun k => Vector.getElem_replicate k.isLt, rfl, rfl, rfl, rfl, rfl, Nat.succ_pos _,
    fun k h => List.getD_eq_getElem _ _ h, rfl, fun a => Memory.unlisted_of_ge⟩

/-- Settles O24: nothing is listed, stacked, counted, latched or waited for, and the first `pc` is 0x200. -/
theorem resetMeetsTheInvariants : Obligations.ResetMeetsTheInvariants := by
  refine ⟨⟨Memory.wf_reset, Nat.zero_le _, Nat.succ_pos _, fun _ => rfl, fun hwait => absurd rfl hwait⟩, ?_, ?_⟩
  · decide
  · exact List.forall_mem_nil _

/-! ## Creation (R300 to R302) -/

section
variable (rom : List Byte) (font : Vector Byte Config.fontLength)

/-- The memory image, byte by byte (R301): the ROM from 0x200, the font below 0x050, and no other byte. -/
theorem read_resetImage (a : Nat) :
    (resetImage rom font).read a = if 0x200 ≤ a ∧ a < 0x200 + rom.length then rom.getD (a - 0x200) 0#8
      else if a < 80 then font.toList.getD a 0#8 else Memory.unlisted a := by
  rw [resetImage, Memory.read_writeBytes, Memory.read_writeBytes, Vector.length_toList]
  simp [Memory.read]

theorem read_resetImage_font {k : Nat} (h : k < 80) : (resetImage rom font).read k = font[k] := by
  rw [read_resetImage, if_neg (by omega), if_pos h, List.getD_eq_getElem _ _ (by simpa using h), Vector.getElem_toList]

theorem read_resetImage_outside {a : Nat} (hfont : 0x050 ≤ a) (hrom : a < 0x200 ∨ 0x200 + rom.length ≤ a) :
    (resetImage rom font).read a = 0 := by
  rw [read_resetImage, if_neg (by omega), if_neg (by omega), Memory.unlisted_of_ge hfont]

theorem resetImage_wf (h : rom.length ≤ 3584) : (resetImage rom font).wf := by
  have hfont : (Memory.writeBytes [] 0 font.toList).wf := 
    Memory.wf_writeBytes Memory.wf_reset (by rw [Vector.length_toList]; decide)
  refine Memory.wf_writeBytes hfont ?_
  simp only [Config.romBase, Config.maxAddress]
  omega

end

/-- Settles O20: the ROM that fits is taken, and the image is read in its four ranges. -/
theorem createdMachineIsTheResetStateWithItsImage : Obligations.CreatedMachineIsTheResetStateWithItsImage := by
  rintro rom font seconds t hseconds hrom rfl
  rw [create_of_fits font hseconds hrom]
  exact ⟨fun k => read_resetImage_font rom font, fun a hlo hhi => read_resetImage_outside rom font hlo (.inl hhi),
    fun k => read_resetImage_rom rom font,
    fun a hlo _ => read_resetImage_outside rom font (by omega) (.inr hlo), resetImage_wf rom font hrom, rfl⟩

/-- A rejected configuration, whatever the ROM (R267). -/
theorem create_of_invalid (rom : List Byte) (font : Vector Byte Config.fontLength) {seconds : Rat} (h : seconds ≤ 0) :
    State.create rom font seconds = State.haltedAtReset .invalidConfig := by
  simp only [State.create, cyclesPerTickOf, if_neg (not_lt.2 h)]

/-- The ceiling of a positive rational as a natural number. -/
theorem ceil_toNat_bounds {q : Rat} (hq : 0 < q) :
    1 ≤ q.ceil.toNat ∧ (q.ceil.toNat : Rat) - 1 < q ∧ q ≤ (q.ceil.toNat : Rat) := by
  have hceil : 0 < q.ceil := by exact_mod_cast hq.trans_le Rat.le_ceil
  have hcast : (q.ceil.toNat : Rat) = (q.ceil : Rat) := by exact_mod_cast Int.toNat_of_nonneg hceil.le
  rw [hcast]
  exact ⟨by omega, sub_lt_iff_lt_add.2 Rat.ceil_lt, Rat.le_ceil⟩

/-- Settles O21: the interval is looked at first, and the period of a positive one is a ceiling. -/
theorem configurationIsCheckedBeforeTheRom : Obligations.ConfigurationIsCheckedBeforeTheRom := by
  intro rom font seconds
  constructor
  · intro hseconds
    rw [create_of_invalid rom font hseconds]
    rfl
  · intro hseconds hrom
    rw [create_of_fits font hseconds hrom]
    exact ceil_toNat_bounds (one_div_pos.2 (mul_pos (by decide) hseconds))

end Sys2Proof.Machine

namespace Sys2Proof

/-- Settles O1: the decoder runs on each of the sample words. -/
theorem sampleWordsDecode : Obligations.SampleWordsDecode := by
  unfold Obligations.SampleWordsDecode
  decide

end Sys2Proof

/-! PROOFS. Noninterference (R270, R283): an instruction that does not poll carries the keypad and the latch along, and
no step looks at `LastInstr` or at the messages sent. -/

namespace Sys2Proof.Machine

/-! ## Instructions that do not poll (R270) -/

/-- The state with other values in the fields that no instruction reads but a poll: the keypad, the latch, `LastInstr`
and the messages sent. -/
def State.withUnpolled (s : State) (key : Vector Bool 16) (latch : Option Nibble) (last : Option Symbol)
    (sent : List Display) : State :=
  { s with key := key, keyLatch := latch, lastInstr := last, displayOut := sent }

/-- The state with other values in the fields that no step reads. -/
def State.withObservers (s : State) (last : Option Symbol) (sent : List Display) : State :=
  { s with lastInstr := last, displayOut := sent }

/-- To commute with `f` on what an instruction answers it is enough to do so on one form of the answer. -/
theorem exec_comm_of_answer (f : State → State) {i : Instr} {s t u : State} (h : exec i s = .next t)
    (hu : exec i s = .next u) (hf : exec i (f s) = .next (f u)) : exec i (f s) = .next (f t) := by
  rw [hu] at h
  cases h
  exact hf

section
variable (s : State) (key : Vector Bool 16) (latch : Option Nibble) (last : Option Symbol) (sent : List Display)

theorem State.loadRegs_withUnpolled (base n : Nat) :
    (s.withUnpolled key latch last sent).loadRegs base n = (s.loadRegs base n).withUnpolled key latch last sent := by
  induction n with
  | zero => rfl
  | succ n ih => rw [State.loadRegs, ih]; rfl

variable {s} {t : State}

/-- An instruction that does not poll commutes with a change of the unpolled fields: it takes the same branch, and
writes the same values. -/
theorem exec_withUnpolled {i : Instr} (hi : i.symbol ∉ [.skpVx, .sknpVx, .ldVxK]) (h : exec i s = .next t) :
    exec i (s.withUnpolled key latch last sent) = .next (t.withUnpolled key latch last sent) := by
  have comm {u : State} := exec_comm_of_answer (·.withUnpolled key latch last sent) (u := u) h
  cases i with
  | skpVx | sknpVx | ldVxK => simp [Instr.symbol] at hi
  | callAddr nnn =>
    obtain hroom | hfull := Nat.lt_or_ge s.stack.length 16
    · exact comm (exec_callAddr_of_room nnn hroom) (exec_callAddr_of_room nnn hroom)
    · exact comm (exec_callAddr_of_full nnn hfull) (exec_callAddr_of_full nnn hfull)
  | ret =>
    cases hstack : s.stack with
    | nil => exact comm (exec_ret_of_nil hstack) (exec_ret_of_nil hstack)
    | cons e rest => exact comm (exec_ret_of_cons hstack) (exec_ret_of_cons hstack)
  | ldFVx x =>
    cases hk : nibbleOf (s.getV x) with
    | none => exact comm (exec_ldFVx_of_no_digit hk) (exec_ldFVx_of_no_digit hk)
    | some k => exact comm (exec_ldFVx_of_digit hk) (exec_ldFVx_of_digit hk)
  | drwVxVyN x y n =>
    cases hrange : firstInvalid s.i.toNat n.toNat with
    | some a => exact comm (exec_drwVxVyN_of_out_of_range hrange) (exec_drwVxVyN_of_out_of_range hrange)
    | none => exact comm (exec_drwVxVyN_of_in_range hrange) (exec_drwVxVyN_of_in_range hrange)
  | ldBVx x =>
    cases hrange : firstInvalid s.i.toNat 3 with
    | some a => exact comm (exec_ldBVx_of_out_of_range hrange) (exec_ldBVx_of_out_of_range hrange)
    | none => exact comm (exec_ldBVx_of_in_range hrange) (exec_ldBVx_of_in_range hrange)
  | ldMemIVx x =>
    cases hrange : firstInvalid s.i.toNat (x.toNat + 1) with
    | some a => exact comm (exec_ldMemIVx_of_out_of_range hrange) (exec_ldMemIVx_of_out_of_range hrange)
    | none => exact comm (exec_ldMemIVx_of_in_range hrange) (exec_ldMemIVx_of_in_range hrange)
  | ldVxMemI x =>
    cases hrange : firstInvalid s.i.toNat (x.toNat + 1) with
    | some a => exact comm (exec_ldVxMemI_of_out_of_range hrange) (exec_ldVxMemI_of_out_of_range hrange)
    | none =>
      have hexec := exec_ldVxMemI_of_in_range (s := s.withUnpolled key latch last sent) hrange
      rw [State.loadRegs_withUnpolled] at hexec
      exact comm (exec_ldVxMemI_of_in_range hrange) hexec
  | _ => cases h; rfl

/-- Every instruction commutes with a change of the observers: a poll takes the same branch, and the others commute with
more. -/
theorem exec_withObservers {i : Instr} (h : exec i s = .next t) :
    exec i (s.withObservers last sent) = .next (t.withObservers last sent) := by
  have comm {u : State} := exec_comm_of_answer (·.withObservers last sent) (u := u) h
  by_cases hi : i.symbol ∈ [.skpVx, .sknpVx, .ldVxK]
  · cases i with
    | skpVx x =>
      cases hk : nibbleOf (s.getV x) with
      | none => exact comm (exec_skpVx_of_no_key hk) (exec_skpVx_of_no_key hk)
      | some k => exact comm (exec_skpVx_of_key hk) (exec_skpVx_of_key hk)
    | sknpVx x =>
      cases hk : nibbleOf (s.getV x) with
      | none => exact comm (exec_sknpVx_of_no_key hk) (exec_sknpVx_of_no_key hk)
      | some k => exact comm (exec_sknpVx_of_key hk) (exec_sknpVx_of_key hk)
    | ldVxK x =>
      cases hw : s.waitKey with
      | none =>
        cases hl : s.keyLatch with
        | none => exact comm (exec_ldVxK_of_nothing hw hl) (exec_ldVxK_of_nothing hw hl)
        | some k => exact comm (exec_ldVxK_of_latched hw hl) (exec_ldVxK_of_latched hw hl)
      | some k =>
        cases hk : s.getKey k with
        | true => exact comm (exec_ldVxK_of_down hw hk) (exec_ldVxK_of_down hw hk)
        | false => exact comm (exec_ldVxK_of_up hw hk) (exec_ldVxK_of_up hw hk)
    | _ => simp [Instr.symbol] at hi
  · obtain ⟨-, -, -, -, -, hlatch, -, hkey, -⟩ := eachSpecialStateHasItsOwnWriters i s t h
    have ht : t.withUnpolled s.key s.keyLatch last sent = t.withObservers last sent := by
      rw [← hkey, ← (hlatch fun hk => hi (by simp [hk])).1]
      rfl
    rw [← ht]
    exact exec_withUnpolled s.key s.keyLatch last sent hi h

end

/-- Settles O56: the observers keep their values, too. -/
theorem onlyPollingInstructionsSeeTheKeypad : Obligations.OnlyPollingInstructionsSeeTheKeypad := by
  intro i s t key latch hi h
  obtain ⟨-, -, -, -, -, -, -, -, hlast, -, -, -, hsent⟩ := eachSpecialStateHasItsOwnWriters i s t h
  have ht : t.withUnpolled key latch s.lastInstr s.displayOut = { t with key := key, keyLatch := latch } := by
    rw [← hlast, ← hsent]
    rfl
  rw [← ht]
  exact exec_withUnpolled key latch s.lastInstr s.displayOut hi h

/-! ## Steps (R32, R283) -/

section
variable {s t : State} (last : Option Symbol) (sent : List Display)

theorem State.applyInput_withObservers (s : State) :
    (s.withObservers last sent).applyInput = s.applyInput.withObservers last sent :=
  State.applyEvents_comm (f := (·.withObservers last sent)) (fun _ e => by cases e <;> rfl) s.popInput s.cycleEvents

/-- The end of a cycle records the same symbol and sends the same display whatever was recorded and sent before. -/
theorem finishCycle_withObservers (y : Symbol) (u : State) :
    ∃ t last' sent', finishCycle y (.next u) = .next t ∧
      finishCycle y (.next (u.withObservers last sent)) = .next (t.withObservers last' sent') := by
  cases hu : u.isHalted with
  | true =>
    exact ⟨u, last, sent, finishCycle_of_halted hu y, finishCycle_of_halted (s := u.withObservers last sent) hu y⟩
  | false =>
    exact ⟨u.endCycle y, some y, _, finishCycle_of_running hu y,
      finishCycle_of_running (s := u.withObservers last sent) hu y⟩

/-- A cycle with other observers ends in the same state but for its observers. -/
theorem cycleAfterInput_withObservers (h : cycleAfterInput s = .next t) :
    ∃ last' sent', cycleAfterInput (s.withObservers last sent) = .next (t.withObservers last' sent') := by
  cases hs : s.isHalted with
  | true =>
    rw [cycleAfterInput_of_halted hs] at h
    cases h
    exact ⟨last, sent, cycleAfterInput_of_halted hs⟩
  | false =>
    cases hf : s.fetchFault with
    | some a =>
      rw [cycleAfterInput_of_fetchFault hs hf] at h
      cases h
      exact ⟨last, sent, cycleAfterInput_of_fetchFault (s := s.withObservers last sent) hs hf⟩
    | none =>
      obtain ⟨u, hu⟩ := exec_answers (decode s.fetchWord) s
      obtain ⟨v, last', sent', hv, hv'⟩ := finishCycle_withObservers last sent (decode s.fetchWord).symbol u
      rw [cycleAfterInput_of_fetched hs hf, hu, hv] at h
      cases h
      have hexec := congrArg (finishCycle (decode s.fetchWord).symbol) (exec_withObservers last sent hu)
      exact ⟨last', sent',
        ((cycleAfterInput_of_fetched (s := s.withObservers last sent) hs hf).trans hexec).trans hv'⟩

end

/-- Settles O57: the input, the instruction and the end of the cycle commute with a change of the observers. -/
theorem observersDoNotInfluenceTheRun : Obligations.ObserversDoNotInfluenceTheRun := by
  intro s t last sent h
  have hrun : s.status = .running := (step_cases h).1
  rw [step_of_running hrun] at h
  obtain ⟨last', sent', hcycle⟩ := cycleAfterInput_withObservers last sent h
  refine ⟨t.withObservers last' sent', ?_, rfl⟩
  rw [← State.applyInput_withObservers] at hcycle
  exact (step_of_running (s := s.withObservers last sent) hrun).trans hcycle

end Sys2Proof.Machine
